-- ==== Sys2Proof/Word.lean ====
section
/-! DEFINITION. The value types of the PatBoy PPU core (spec/00_scope.md rules R8, R10, R11, R13; spec/30_encoding.md rule R95). -/

namespace Sys2Proof

/-- An unsigned 8-bit value: a memory cell, a register, a colour channel (R11). -/
abbrev Byte := BitVec 8

/-- A 16-bit memory address (R11, R73). -/
abbrev Addr := BitVec 16

/-- One command word, delivered whole on the command port (R95). -/
abbrev Word := BitVec 32

/-- One frame-buffer pixel: the triple (R, G, B), each channel 0-255 (R47, R78). -/
structure Rgb where
  r : Byte
  g : Byte
  b : Byte
deriving DecidableEq, Repr

end Sys2Proof
end

