-- ==== Sys2Proof/Syntax.lean ====
section
/-! DEFINITION. The nine commands of the block (spec/00_scope.md rule R9), one constructor for each row of
spec/opcode_table.json. Operands have the types spec/30_encoding.md rule R97 gives them: `zext` fields are numbers,
`pal` and `data` are bytes, `addr` is a 16-bit address. -/

namespace Sys2Proof

inductive Instr where
  /-- ADVANCE: one step of the timing state machine (R131). -/
  | advance (cycles : Nat)
  /-- RENDER_LINE: the rendering pipeline for the current LY (R145). -/
  | renderLine
  /-- RENDER_BG: the background and window resolver alone (R160). -/
  | renderBg
  /-- RENDER_OBJ: the sprite rasterizer alone (R185). -/
  | renderObj
  /-- PAL_LOOKUP: the palette resolver as a pure function (R215). -/
  | palLookup (ci : Nat) (pal : Byte)
  /-- FB_READ: read one frame-buffer pixel (R219). -/
  | fbRead (row col : Nat)
  /-- FB_CLEAR: refill the frame buffer (R223). -/
  | fbClear
  /-- BUSW: write one byte through the direct memory port (R235). -/
  | busw (addr : Addr) (data : Byte)
  /-- BUSR: read one byte through the direct memory port (R239). -/
  | busr (addr : Addr)
deriving DecidableEq, Repr

end Sys2Proof
end

