-- ==== Sys2Proof/Decode.lean ====
section
/-! DEFINITION. The command decoder and encoder (spec/30_encoding.md rules R95 to R99; opcode_table.json). -/

namespace Sys2Proof

/-- `w[hi:lo]`: the unsigned field from bit hi down to bit lo (R10). -/
def bits (w : Word) (hi lo : Nat) : Nat := (w.extractLsb' lo (hi + 1 - lo)).toNat

/-- Why a word is no command (R99). Either way it runs as `raise Fault(IllegalCommand)`. -/
inductive DecodeReject where
  | reservedOp    -- operation codes 0x9 to 0xF
  | reservedBits  -- a reserved bit that is not zero
deriving DecidableEq, Repr

/-- `i` when every reserved bit is zero, here given as the field that gathers them. -/
def whenZero (reserved : Nat) (i : Instr) : Except DecodeReject Instr :=
  if reserved = 0 then .ok i else .error .reservedBits

/-- Decoding, total on every 32-bit word (R98). -/
def decode (w : Word) : Except DecodeReject Instr :=
  match bits w 31 28 with
  | 0x0 => whenZero (bits w 27 16) (.advance (bits w 15 0))
  | 0x1 => whenZero (bits w 27 0) .renderLine
  | 0x2 => whenZero (bits w 27 0) .renderBg
  | 0x3 => whenZero (bits w 27 0) .renderObj
  | 0x4 => whenZero (bits w 27 10) (.palLookup (bits w 9 8) (w.extractLsb' 0 8))
  | 0x5 => whenZero (bits w 27 16) (.fbRead (bits w 15 8) (bits w 7 0))
  | 0x6 => whenZero (bits w 27 0) .fbClear
  | 0x7 => whenZero (bits w 27 24) (.busw (w.extractLsb' 8 16) (w.extractLsb' 0 8))
  | 0x8 => whenZero (bits w 27 24 + bits w 7 0) (.busr (w.extractLsb' 8 16))
  | _ => .error .reservedOp

/-- The word of a well-formed command, from the format table (R96). -/
def encode : Instr → Word
  | .advance cycles => 0x0#4 ++ 0#12 ++ BitVec.ofNat 16 cycles
  | .renderLine => 0x1#4 ++ 0#28
  | .renderBg => 0x2#4 ++ 0#28
  | .renderObj => 0x3#4 ++ 0#28
  | .palLookup ci pal => 0x4#4 ++ 0#18 ++ BitVec.ofNat 2 ci ++ pal
  | .fbRead row col => 0x5#4 ++ 0#12 ++ BitVec.ofNat 8 row ++ BitVec.ofNat 8 col
  | .fbClear => 0x6#4 ++ 0#28
  | .busw addr data => 0x7#4 ++ 0#4 ++ addr ++ data
  | .busr addr => 0x8#4 ++ 0#4 ++ addr ++ 0#8

/-- The word a host query names by its low `nbits` bits, the bits above them zero. -/
def tableWord (nbits w : Nat) : Word := BitVec.ofNat 32 (w % 2 ^ nbits)

/-- The instruction the decoder reads from a table word. A command is one whole word, so there are no bytes to lay out (R95). -/
def decodeTableWord (nbits w : Nat) : Option Instr := (decode (tableWord nbits w)).toOption

/-- A row of the opcode table: the bits a command's word fixes and their values. -/
structure OpcodeRow where
  mask  : Word
  value : Word
deriving DecidableEq, Repr

/-- The row of spec/opcode_table.json that a command belongs to. -/
def Instr.row : Instr → OpcodeRow
  | .advance _ => ⟨0xFFFF0000, 0x00000000⟩
  | .renderLine => ⟨0xFFFFFFFF, 0x10000000⟩
  | .renderBg => ⟨0xFFFFFFFF, 0x20000000⟩
  | .renderObj => ⟨0xFFFFFFFF, 0x30000000⟩
  | .palLookup _ _ => ⟨0xFFFFFC00, 0x40000000⟩
  | .fbRead _ _ => ⟨0xFFFF0000, 0x50000000⟩
  | .fbClear => ⟨0xFFFFFFFF, 0x60000000⟩
  | .busw _ _ => ⟨0xFF000000, 0x70000000⟩
  | .busr _ => ⟨0xFF0000FF, 0x80000000⟩

/-- spec/opcode_table.json as masks and values, in its order. -/
def opcodeTable : List OpcodeRow :=
  [⟨0xFFFF0000, 0x00000000⟩, ⟨0xFFFFFFFF, 0x10000000⟩, ⟨0xFFFFFFFF, 0x20000000⟩, ⟨0xFFFFFFFF, 0x30000000⟩,
    ⟨0xFFFFFC00, 0x40000000⟩, ⟨0xFFFF0000, 0x50000000⟩, ⟨0xFFFFFFFF, 0x60000000⟩, ⟨0xFF000000, 0x70000000⟩,
    ⟨0xFF0000FF, 0x80000000⟩]

/-- A word matches a row of the opcode table. -/
def OpcodeRow.matches (r : OpcodeRow) (w : Word) : Bool := w &&& r.mask == r.value

end Sys2Proof
end

