-- ==== Sys2Proof/Config.lean ====
section
/-! DEFINITION. The block's launch parameters: what the source leaves open and the spec turns into a named
parameter (spec/00_scope.md rule R7; spec/92_eei_decisions.md D12, D20, D21, D27), and the names of the memory-mapped
registers (spec/10_state.md rule R33). The numbers the spec fixes stand in Machine/Params.lean. -/

namespace Sys2Proof

/-- How the LYC match requests an interrupt (`LycIrqMode`, R143, D12). -/
inductive LycIrqMode where
  | edge    -- on a match whose old match bit was 0
  | level   -- on every matching ADVANCE
deriving DecidableEq, Repr

/-- Which sprite pixels are transparent (`ObjTransparency`, R197, D20). -/
inductive ObjTransparency where
  | none    -- every pixel is drawn
  | index0  -- colour index 0 is not drawn
  | shade0  -- a pixel whose shade is 0 is not drawn
deriving DecidableEq, Repr

/-- The two readings of the sprite-priority quirk (`PrioVariant`, R195, R196, D21). -/
inductive PrioVariant where
  | scenario
  | prose
deriving DecidableEq, Repr

/-- The parameters the block takes at launch. They are configuration and no command changes them (R32). -/
structure Config where
  lycIrqMode      : LycIrqMode
  objTransparency : ObjTransparency
  prioVariant     : PrioVariant
  fbInitColour    : Rgb
deriving DecidableEq, Repr

/-- The eleven memory-mapped registers of the block, by name (R33). -/
inductive Reg where
  | lcdc | stat | scy | scx | ly | lyc | bgp | obp0 | obp1 | wy | wx
deriving DecidableEq, Repr

/-- The states of the timing state machine: Disabled, OAMScan(2), PixelTransfer(3), HBlank(0), VBlank(1) (R48, R125). -/
inductive PpuState where
  | disabled | oamScan | pixelTransfer | hBlank | vBlank
deriving DecidableEq, Repr

end Sys2Proof
end

