-- ==== Sys2Proof/Machine/Params.lean ====
section
/-! DEFINITION. The numbers the spec fixes (spec/00_scope.md rule R6) and the defaults and addresses it decides
(rule R7; spec/10_state.md rule R33; spec/20_memory.md rule R76). -/

namespace Sys2Proof.Machine

/-- `LINE_BUDGET`: cycles per scanline. -/
def lineBudget : Int := 456
/-- `MODE2_MIN`: at least this many cycles remaining is OAM-scan. -/
def mode2Min : Int := 376
/-- `MODE3_MIN`: at least this many cycles remaining is pixel-transfer. -/
def mode3Min : Int := 204
/-- `VBLANK_LINE`: the first V-Blank line. -/
def vblankLine : Nat := 144
/-- `LAST_LINE`: the largest LY before the wrap. -/
def lastLine : Nat := 153
/-- `OAM_ENTRIES`: 40 entries of 4 bytes. -/
def oamEntries : Nat := 40
/-- `TILE_DATA_UNSIGNED_BASE`. -/
def tileDataUnsigned : Nat := 0x8000
/-- `TILE_DATA_SIGNED_BASE`. -/
def tileDataSigned : Nat := 0x8800

/-- The shade names of R13. -/
def white : Rgb := ⟨255, 255, 255⟩
def lgray : Rgb := ⟨0xCC, 0xCC, 0xCC⟩
def dgray : Rgb := ⟨0x77, 0x77, 0x77⟩
def black : Rgb := ⟨0, 0, 0⟩

/-- `RegAddr`: the address of each register (R33, D4: the original console's, general knowledge of the spec's). -/
def regAddr : Reg → Addr
  | .lcdc => 0xFF40
  | .stat => 0xFF41
  | .scy  => 0xFF42
  | .scx  => 0xFF43
  | .ly   => 0xFF44
  | .lyc  => 0xFF45
  | .bgp  => 0xFF47
  | .obp0 => 0xFF48
  | .obp1 => 0xFF49
  | .wy   => 0xFF4A
  | .wx   => 0xFF4B

/-- `MapBase(b)`: the tile map that a select bit names (R76, D5). -/
def mapBase (b : Bool) : Nat := if b then 0x9C00 else 0x9800

/-- `OAM_BASE` (R33, D6). -/
def oamBase : Nat := 0xFE00

/-- The parameter defaults (R7: D12 Edge, D20 Index0, D21 Scenario, D27 WHITE). -/
def defaultConfig : Config :=
  { lycIrqMode := .edge, objTransparency := .index0, prioVariant := .scenario, fbInitColour := white }

/-- What an address that memory does not list reads as. The spec leaves the reset contents to the parameter `InitMem`;
0x00 is its reference start state (R283; spec/95_test_vectors.md section 0). DESIGN CHOICE, unsafe: log entry 2. -/
def unlistedByte : Byte := 0x00

end Sys2Proof.Machine
end

