-- ==== Sys2Proof/Machine/Flags.lean ====
section
/-! DEFINITION. Bit operations on a register byte (spec/00_scope.md rules R10, R20) and every computation of a status
flag: the mode, the LYC match, the interrupt edges and the STAT write-back (spec/10_state.md rules R36 to R38, R48;
spec/40_sequencer.md rules R139, R140, R142 to R144). -/

namespace Sys2Proof.Machine

/-- `set(r, i)` (R20). -/
def setBit (r : Byte) (i : Nat) : Byte := r ||| (1#8 <<< i)
/-- `clear(r, i)` (R20). -/
def clearBit (r : Byte) (i : Nat) : Byte := r &&& ~~~(1#8 <<< i) &&& 0xFF#8
/-- `toggle(r, i)` (R20). -/
def toggleBit (r : Byte) (i : Nat) : Byte := r ^^^ (1#8 <<< i)
/-- `test(r, i)`, which the spec also writes `r[i] == 1` (R10, R20). -/
def testBit (r : Byte) (i : Nat) : Bool := r.getLsbD i
/-- `clearAll(r)` (R20). -/
def clearAll (_r : Byte) : Byte := 0

/-- STAT bits 1-0: the mode (R36). -/
def statMode (stat : Byte) : BitVec 2 := stat.extractLsb' 0 2
/-- STAT bit 2: the LYC-match flag (R36). -/
def statMatch (stat : Byte) : Bool := testBit stat 2

/-- The state of the timing state machine as a function of LCDC bit 7, LY and the counter (R48). -/
def ppuStateOf (enabled : Bool) (ly : Nat) (counter : Int) : PpuState :=
  if enabled = false then .disabled
  else if vblankLine ≤ ly then .vBlank
  else if mode2Min ≤ counter then .oamScan
  else if mode3Min ≤ counter then .pixelTransfer
  else .hBlank

/-- The mode number STAT reports (R38), Disabled as 0 (R48). -/
def modeNumber : PpuState → BitVec 2
  | .disabled => 0
  | .hBlank => 0
  | .vBlank => 1
  | .oamScan => 2
  | .pixelTransfer => 3

/-- Step 4 of ADVANCE: the mode (R139, R132). -/
def modeOf (enabled : Bool) (ly : Nat) (counter : Int) : BitVec 2 := modeNumber (ppuStateOf enabled ly counter)

/-- Step 5: an LCD-STAT request on a change to a mode whose enable bit is set; mode 3 has none (R140). -/
def modeEdge (stat0 : Byte) (mode : BitVec 2) : Bool :=
  mode != statMode stat0 &&
    ((mode == 2 && testBit stat0 5) || (mode == 0 && testBit stat0 3) || (mode == 1 && testBit stat0 4))

/-- Step 6: an LCD-STAT request on an LYC match, once for each edge or on every call (R143). -/
def lycRequest (variant : LycIrqMode) (stat0 : Byte) (isMatch : Bool) : Bool :=
  isMatch && testBit stat0 6 && (variant == .level || !statMatch stat0)

/-- `{stat0[7:3] : match : mode}` (R37, R144). -/
def statWriteBack (stat0 : Byte) (isMatch : Bool) (mode : BitVec 2) : Byte :=
  stat0.extractLsb' 3 5 ++ BitVec.ofBool isMatch ++ mode

end Sys2Proof.Machine
end

