-- ==== Sys2Proof/Machine/Memory.lean ====
section
/-! DEFINITION. Memory: 65536 bytes of plain storage behind the direct-access port (spec/20_memory.md rules R70, R72, R73,
R88), kept as a list of cells in one canonical form. -/

namespace Sys2Proof.Machine

/-- The cells that differ from `unlistedByte`, addresses strictly rising. -/
abbrev Memory := List Host.Cell

/-- `MemRead(a, 1)`: the byte held at an address (R72). -/
def Memory.read : Memory → Nat → Byte
  | [], _ => unlistedByte
  | (k, b) :: m, a => if a = k then b else Memory.read m a

/-- A cell before a memory whose addresses lie above it, left out when it holds what an unlisted address reads as. -/
def Memory.cons (a : Nat) (v : Byte) (m : Memory) : Memory := if v = unlistedByte then m else (a, v) :: m

/-- `MemWrite(a, 1, v)`: store one byte, keeping the canonical form (R72). -/
def Memory.write : Memory → Nat → Byte → Memory
  | [], a, v => Memory.cons a v []
  | (k, b) :: m, a, v =>
    if a < k then Memory.cons a v ((k, b) :: m)
    else if a = k then Memory.cons a v m
    else (k, b) :: Memory.write m a v

/-- The form of the cells above address `lo`: rising addresses inside the 16-bit space, none holding the unlisted byte. -/
def Memory.wfFrom : Nat → Memory → Bool
  | _, [] => true
  | lo, (k, b) :: m => decide (lo ≤ k) && decide (k < 65536) && decide (b ≠ unlistedByte) && Memory.wfFrom (k + 1) m

/-- The canonical form. -/
def Memory.wf (m : Memory) : Bool := Memory.wfFrom 0 m

end Sys2Proof.Machine
end

