-- ==== Sys2Proof/Machine/Operands.lean ====
section
/-! DEFINITION. Where a renderer's data lies in memory and how its bytes are read: tiles, tile maps, OAM entries and
palettes (spec/20_memory.md rules R75, R76; spec/30_encoding.md rules R104 to R108). -/

namespace Sys2Proof.Machine

/-- `trunc8(v)`: the non-negative remainder modulo 256 (R11). -/
def trunc8 (v : Int) : Nat := (v % 256).toNat

/-- The index byte's address for map row `mr` and map column `mc` (R76). -/
def mapAddr (select : Bool) (mr mc : Nat) : Nat := mapBase select + 32 * mr + mc

/-- A background or window tile's address, from LCDC bit 4 and the index byte (R75, R108, R165). -/
def bgTileAddr (direct : Bool) (idx : Byte) : Nat :=
  if direct then tileDataUnsigned + 16 * idx.toNat
  else ((tileDataSigned : Int) + 16 * (idx.toInt + 128)).toNat

/-- A sprite row's address: always unsigned, the index never masked (R75, R191). -/
def objRowAddr (tile row : Nat) : Nat := tileDataUnsigned + 16 * tile + 2 * row

/-- One row of a tile: the two bit planes (R45). -/
structure TileRow where
  lo : Byte
  hi : Byte
deriving DecidableEq, Repr

/-- The row pair at an address, low plane first (R45, R78). -/
def tileRowAt (m : Memory) (a : Nat) : TileRow := ⟨m.read a, m.read (a + 1)⟩

/-- `{hi[b] : lo[b]}`: the colour index at bit position `b` (R105). -/
def TileRow.colourIndex (t : TileRow) (b : Nat) : Nat := ((testBit t.hi b).toNat <<< 1) ||| (testBit t.lo b).toNat

/-- `shade(ci, p) = {p[2ci+1] : p[2ci]}` (R106). -/
def shade (ci : Nat) (p : Byte) : BitVec 2 := BitVec.ofBool (testBit p (2 * ci + 1)) ++ BitVec.ofBool (testBit p (2 * ci))

/-- `SHADE_RGB` (R107, R216). -/
def shadeRgb (s : BitVec 2) : Rgb :=
  match s.toNat with
  | 0 => white
  | 1 => lgray
  | 2 => dgray
  | _ => black

/-- `PAL(ci, p)`, the palette resolver (R215). -/
def pal (ci : Nat) (p : Byte) : Rgb := shadeRgb (shade ci p)

/-- `{R : G : B}` as response data (R100). -/
def packRgb (c : Rgb) : BitVec 24 := c.r ++ c.g ++ c.b

/-- An OAM entry with its operands assembled as signed coordinates (R44, R104). -/
structure OamEntry where
  top  : Int
  left : Int
  tile : Nat
  attr : Byte
deriving DecidableEq, Repr

/-- Entry `i` of the object-attribute table (R44, R104). -/
def oamEntry (m : Memory) (i : Nat) : OamEntry :=
  { top := (m.read (oamBase + 4 * i)).toNat - 16
    left := (m.read (oamBase + 4 * i + 1)).toNat - 8
    tile := (m.read (oamBase + 4 * i + 2)).toNat
    attr := m.read (oamBase + 4 * i + 3) }

/-- Attribute bit 4: palette select (R44). -/
def OamEntry.palSel (e : OamEntry) : Bool := testBit e.attr 4
/-- Attribute bit 5: X-flip. -/
def OamEntry.xflip (e : OamEntry) : Bool := testBit e.attr 5
/-- Attribute bit 6: Y-flip. -/
def OamEntry.yflip (e : OamEntry) : Bool := testBit e.attr 6
/-- Attribute bit 7: background priority. -/
def OamEntry.prio (e : OamEntry) : Bool := testBit e.attr 7

end Sys2Proof.Machine
end

