-- ==== Sys2Proof/Machine/Frame.lean ====
section
/-! DEFINITION. The frame buffer: 144 rows of 160 pixels (spec/10_state.md rule R47; spec/43_palette_framebuffer.md rules R221, R222). -/

namespace Sys2Proof.Machine

/-- One scanline of pixels, by column (screen X). -/
abbrev Row := Vector Rgb 160

/-- The frame buffer, by row (scanline). -/
abbrev Frame := Vector Row 144

/-- Every pixel one colour: the fill of reset and of FB_CLEAR (R280, R223). -/
def Frame.fill (colour : Rgb) : Frame := Vector.replicate 144 (Vector.replicate 160 colour)

/-- `fb[ly]`. -/
def Frame.row (fb : Frame) (ly : Fin 144) : Row := fb[ly]

/-- Replace row `ly`. -/
def Frame.setRow (fb : Frame) (ly : Fin 144) (row : Row) : Frame := fb.set ly row

end Sys2Proof.Machine
end

