-- ==== Sys2Proof/Machine/State.lean ====
section
/-! DEFINITION. The machine's state (spec/10_state.md rules R30 to R32, R46, R47, R52, R55) and its reset
(spec/70_reset_and_hazards.md rules R280, R283). -/

namespace Sys2Proof.Machine

/-- The command port's faults (R262), all of them recoverable: `raiseFault` records the reason in `State.faults`, answers
the error response and the block goes on with the next command. No step ends in `Host.Outcome.fault`. -/
inductive Fault where
  /-- Raised by decoding a reserved operation code or a reserved bit that is not zero. Safe: recorded, no state changes. -/
  | illegalCommand
  /-- Raised by RENDER_LINE, RENDER_BG and RENDER_OBJ as commands when LY ≥ 144. Safe: recorded, no state changes. -/
  | badLine
  /-- Raised by FB_READ outside the 144 × 160 grid. Safe: recorded, no state changes. -/
  | badPixel
deriving DecidableEq, Repr

/-- Why a step has no meaning. Every instruction of this model has one, so nothing raises it. -/
inductive Refusal where
  /-- Raised by an arm of `exec` whose instruction has no meaning yet: none. Safe: the run stops. -/
  | notModelled (mnemonic : String)
deriving DecidableEq, Repr

/-- What a command returns to the host (R52, R100). -/
structure Response where
  err       : Bool
  data      : BitVec 24
  irqVblank : Bool
  irqStat   : Bool
  frameDone : Bool
deriving DecidableEq, Repr

/-- Every field 0: the response before the first command (R280) and that of a command with nothing to say. -/
def Response.ok : Response := ⟨false, 0, false, false, false⟩

/-- The response of a faulting command: `err = 1`, `data = 0`, every other bit 0 (R262). -/
def Response.error : Response := ⟨true, 0, false, false, false⟩

/-- The block with its command port. `mem`, `counter` and `fb` are the spec's state (R32); the registers, tile data, tile
maps and OAM are bytes of `mem` (R30). `resp` and `faults` hold a command's output and the record of its faults (R52, R262);
`port` and `cfg` are the model's own fields: the commands the host has sent and the launch parameters. -/
structure State where
  /-- The memory collaborator's contents as direct access sees them (R72). -/
  mem : Memory
  /-- The scanline countdown (R46). -/
  counter : Int
  /-- The frame buffer (R47). -/
  fb : Frame
  /-- Command words the host has sent and the block has not run yet, oldest first (R31, R95). -/
  port : List Word
  /-- The response to the last command (R52). -/
  resp : Response
  /-- The faults recorded so far, newest first (R262). -/
  faults : List Fault
  /-- The launch parameters (R7), which no step changes. -/
  cfg : Config
deriving DecidableEq, Repr

/-- The machine right after reset with launch parameters `cfg` and initial memory `image` (`InitMem`): the block loads
`counter`, fills `fb` and writes no memory (R280). -/
def State.resetWith (cfg : Config) (image : Memory) : State :=
  { mem := image, counter := lineBudget, fb := Frame.fill cfg.fbInitColour, port := [], resp := Response.ok,
    faults := [], cfg := cfg }

/-- The reference start state: the default parameters and memory reading 0x00 everywhere (R283). -/
def State.reset : State := State.resetWith defaultConfig []

end Sys2Proof.Machine
end

