-- ==== Sys2Proof/Machine/Ops.lean ====
section
/-! DEFINITION. The operations every meaning is written with: the direct memory port, the registers, the counter, the frame
buffer, the response, and `raise Fault(reason)` (spec/00_scope.md rule R12; spec/60_exceptions.md rule R262). -/

namespace Sys2Proof.Machine

/-- `readDirectly(addr)` (R70). -/
def State.readDirectly (s : State) (a : Addr) : Byte := s.mem.read a.toNat

/-- `writeDirectly(addr, byte)` (R70). -/
def State.writeDirectly (s : State) (a : Addr) (v : Byte) : State := { s with mem := s.mem.write a.toNat v }

/-- `reg(NAME)` in a memory (R12). -/
def Memory.reg (m : Memory) (r : Reg) : Byte := m.read (regAddr r).toNat

/-- `reg(NAME)` (R12). -/
def State.reg (s : State) (r : Reg) : Byte := s.mem.reg r

/-- `reg(NAME) <- v` (R12). -/
def State.writeReg (s : State) (r : Reg) (v : Byte) : State := s.writeDirectly (regAddr r) v

/-- `counter <- v` (R12). -/
def State.setCounter (s : State) (v : Int) : State := { s with counter := v }

/-- Replace the frame buffer. -/
def State.setFb (s : State) (fb : Frame) : State := { s with fb := fb }

/-- The command's response (R52). -/
def State.respond (s : State) (r : Response) : State := { s with resp := r }

/-- `respond(data)`: a response that carries data and nothing else (R12, R52). -/
def State.respondData (s : State) (d : BitVec 24) : State := s.respond { Response.ok with data := d }

/-- A fault as a state: the reason recorded, the error response, nothing else changed (R262). -/
def State.recordFault (s : State) (f : Fault) : State := { s with resp := Response.error, faults := f :: s.faults }

/-- `raise Fault(reason)`: the command ends with no change to memory, `counter` or `fb`, the host reads `err = 1`, and the
next command runs normally (R262). -/
def raiseFault (f : Fault) (s : State) : Host.Outcome State Fault Refusal := .next (s.recordFault f)

/-- LCDC bit 7: the display is enabled (R34). -/
def State.displayEnabled (s : State) : Bool := testBit (s.reg .lcdc) 7

/-- The state of the timing state machine (R48). -/
def State.ppuState (s : State) : PpuState := ppuStateOf s.displayEnabled (s.reg .ly).toNat s.counter

/-- Run a renderer on row LY, or raise BadLine when no such row exists (R145, R160, R185). -/
def renderCurrentLine (render : Fin 144 → State → State) (s : State) : Host.Outcome State Fault Refusal :=
  if h : (s.reg .ly).toNat < 144 then .next ((render ⟨(s.reg .ly).toNat, h⟩ s).respond Response.ok)
  else raiseFault .badLine s

end Sys2Proof.Machine
end

