-- ==== Sys2Proof/Machine/HostPort.lean ====
section
/-! DEFINITION. The host test port: BUSW, BUSR (spec/44_host_port.md rules R235 to R239). -/

namespace Sys2Proof.Machine

/-- BUSW (R235): one byte through the direct port, no filter. -/
def execBusw (a : Addr) (v : Byte) (s : State) : Host.Outcome State Fault Refusal :=
  .next ((s.writeDirectly a v).respond Response.ok)

/-- BUSR (R239): `{0x0000 : byte}`. -/
def execBusr (a : Addr) (s : State) : Host.Outcome State Fault Refusal :=
  .next (s.respondData (0#16 ++ s.readDirectly a))

end Sys2Proof.Machine
end

