-- ==== Sys2Proof/Machine/PaletteFb.lean ====
section
/-! DEFINITION. The palette lookup and the frame buffer: PAL_LOOKUP, FB_READ, FB_CLEAR
(spec/43_palette_framebuffer.md rules R215 to R223). -/

namespace Sys2Proof.Machine

/-- PAL_LOOKUP (R215): the palette resolver as a pure function. -/
def execPalLookup (ci : Nat) (p : Byte) (s : State) : Host.Outcome State Fault Refusal :=
  .next (s.respondData (packRgb (pal ci p)))

/-- FB_READ (R219): one pixel, or BadPixel outside the grid. -/
def execFbRead (row col : Nat) (s : State) : Host.Outcome State Fault Refusal :=
  if h : row < 144 ∧ col < 160 then .next (s.respondData (packRgb (s.fb[row]'h.1)[col])) else raiseFault .badPixel s

/-- FB_CLEAR (R223): refill with the parameter `FbInitColour`. -/
def execFbClear (s : State) : Host.Outcome State Fault Refusal :=
  .next ((s.setFb (Frame.fill s.cfg.fbInitColour)).respond Response.ok)

end Sys2Proof.Machine
end

