-- ==== Sys2Proof/Machine/Background.lean ====
section
/-! DEFINITION. The background and window resolver: RENDER_BG (spec/41_background.md rules R160 to R169). -/

namespace Sys2Proof.Machine

/-- The registers `renderBg` reads before its loop (R160). -/
structure BgRegs where
  lcdc : Byte
  scy  : Nat
  scx  : Nat
  wy   : Nat
  wx   : Nat
  bgp  : Byte
deriving DecidableEq, Repr

def bgRegs (m : Memory) : BgRegs :=
  { lcdc := m.reg .lcdc, scy := (m.reg .scy).toNat, scx := (m.reg .scx).toNat, wy := (m.reg .wy).toNat,
    wx := (m.reg .wx).toNat, bgp := m.reg .bgp }

/-- The window covers this row: enabled, and `WY ≤ LY` (R161). -/
def BgRegs.winRow (r : BgRegs) (ly : Nat) : Bool := testBit r.lcdc 5 && decide (r.wy ≤ ly)

/-- The pixel is a window pixel: a window row, and screen X at least `WX − 7`, compared on integers (R161). -/
def BgRegs.win (r : BgRegs) (ly sx : Nat) : Bool := r.winRow ly && decide ((r.wx : Int) - 7 ≤ (sx : Int))

/-- A pixel's source: the map it reads and its coordinates there, each 0-255. -/
structure BgSource where
  mapSelect : Bool
  py : Nat
  px : Nat
deriving DecidableEq, Repr

/-- The map of LCDC bit 6 at `(LY − WY, sx − (WX − 7))` for a window pixel, the map of LCDC bit 3 at `(SCY + LY, sx + SCX)`
for a background pixel, truncated to bytes (R162, R163). -/
def BgRegs.source (r : BgRegs) (ly sx : Nat) : BgSource :=
  if r.win ly sx then
    { mapSelect := testBit r.lcdc 6, py := trunc8 ((ly : Int) - r.wy), px := trunc8 ((sx : Int) - ((r.wx : Int) - 7)) }
  else
    { mapSelect := testBit r.lcdc 3, py := trunc8 ((r.scy : Int) + ly), px := trunc8 ((sx : Int) + r.scx) }

/-- The map entry a source pixel falls in (R164). -/
def BgSource.mapAddr (c : BgSource) : Nat := Machine.mapAddr c.mapSelect (c.py / 8) (c.px / 8)

/-- The address of the tile row a source pixel falls in (R165, R166). -/
def BgSource.rowAddr (c : BgSource) (r : BgRegs) (m : Memory) : Nat :=
  bgTileAddr (testBit r.lcdc 4) (m.read c.mapAddr) + 2 * (c.py % 8)

/-- The pixel `renderBg` writes at screen X `sx` of row `ly` (R160, R167, R168). -/
def bgPixel (r : BgRegs) (m : Memory) (ly sx : Nat) : Rgb :=
  let c := r.source ly sx
  pal ((tileRowAt m (c.rowAddr r m)).colourIndex (7 - c.px % 8)) r.bgp

/-- The 160 pixels `renderBg` writes to row `ly`. -/
def bgRow (m : Memory) (ly : Fin 144) : Row := Vector.ofFn fun sx : Fin 160 => bgPixel (bgRegs m) m ly sx

/-- `renderBg(ly)` (R160). -/
def renderBg (ly : Fin 144) (s : State) : State := s.setFb (s.fb.setRow ly (bgRow s.mem ly))

/-- RENDER_BG (R160): the background alone for the current LY; LCDC bit 0 is ignored. -/
def execRenderBg (s : State) : Host.Outcome State Fault Refusal := renderCurrentLine renderBg s

end Sys2Proof.Machine
end

