-- ==== Sys2Proof/Machine/Sprites.lean ====
section
/-! DEFINITION. The sprite rasterizer: RENDER_OBJ (spec/42_sprites.md rules R185 to R200). -/

namespace Sys2Proof.Machine

/-- Sprite height, from LCDC bit 2 (R186). -/
def spriteHeight (lcdc : Byte) : Nat := if testBit lcdc 2 then 16 else 8

/-- The sprite's vertical extent covers the line (R188). -/
def OamEntry.covers (e : OamEntry) (h ly : Nat) : Bool := decide (e.top ≤ (ly : Int)) && decide ((ly : Int) < e.top + h)

/-- The row of the sprite shown on a line it covers, mirrored in its height by Y-flip (R189). -/
def OamEntry.rowOn (e : OamEntry) (h ly : Nat) : Nat :=
  let row := ((ly : Int) - e.top).toNat
  if e.yflip then h - 1 - row else row

/-- The bit position screen column `c` of the sprite shows (R192). -/
def OamEntry.bitOf (e : OamEntry) (c : Nat) : Nat := if e.xflip then c else 7 - c

/-- A colour index that is not drawn, under each `ObjTransparency` (R197). -/
def transparent (t : ObjTransparency) (ci : Nat) (p : Byte) : Bool :=
  match t with
  | .none => false
  | .index0 => ci == 0
  | .shade0 => shade ci p == 0

/-- What does not change while one sprite's row is drawn: the sprite, its tile row on this line and its palette. -/
structure SpriteLine where
  entry   : OamEntry
  tileRow : TileRow
  palette : Byte
deriving DecidableEq, Repr

/-- The colour index of screen column `c` (R192). -/
def SpriteLine.ci (l : SpriteLine) (c : Nat) : Nat := l.tileRow.colourIndex (l.entry.bitOf c)

/-- The frame-buffer column that sprite column `c` falls on, when it is on the screen (R198). -/
def SpriteLine.column (l : SpriteLine) (c : Nat) : Option (Fin 160) :=
  let sx := l.entry.left + (c : Int)
  if h : sx < 0 ∨ sx > 159 then none else some ⟨sx.toNat, by omega⟩

/-- The frame-buffer row and the priority state while a sprite's row is drawn (R193). -/
structure SpriteRow where
  row : Row
  hideArmed : Bool
deriving DecidableEq, Repr

/-- Write one sprite pixel (R199). -/
def SpriteRow.draw (st : SpriteRow) (sx : Fin 160) (colour : Rgb) : SpriteRow := { st with row := st.row.set sx colour }

/-- End the hiding for the rest of the sprite's row. -/
def SpriteRow.disarm (st : SpriteRow) : SpriteRow := { st with hideArmed := false }

/-- An opaque, on-screen pixel against the priority quirk: `Scenario` hides over WHITE until the first pixel over
non-WHITE, which is drawn (R195); `Prose` hides only that first pixel (R196). The test reads the frame buffer (R194). -/
def SpriteRow.place (v : PrioVariant) (st : SpriteRow) (sx : Fin 160) (colour : Rgb) : SpriteRow :=
  let overWhite := st.row[sx] == white
  if st.hideArmed then
    match v with
    | .scenario => if overWhite then st else st.disarm.draw sx colour
    | .prose => if overWhite then st.draw sx colour else st.disarm
  else st.draw sx colour

/-- One column of a sprite: transparency first, then clipping, then the priority test, then the write (R185, R197, R198). -/
def spriteColumn (cfg : Config) (l : SpriteLine) (st : SpriteRow) (c : Nat) : SpriteRow :=
  if transparent cfg.objTransparency (l.ci c) l.palette then st
  else
    match l.column c with
    | none => st
    | some sx => st.place cfg.prioVariant sx (pal (l.ci c) l.palette)

/-- What entry `i` shows on line `ly` (R189 to R191). -/
def spriteLine (m : Memory) (ly i : Nat) : SpriteLine :=
  let e := oamEntry m i
  { entry := e
    tileRow := tileRowAt m (objRowAddr e.tile (e.rowOn (spriteHeight (m.reg .lcdc)) ly))
    palette := if e.palSel then m.reg .obp1 else m.reg .obp0 }

/-- A sprite's row over a frame-buffer row: columns 0 to 7, left to right, with a priority state of its own (R192, R193). -/
def drawSpriteLine (cfg : Config) (l : SpriteLine) (row : Row) : Row :=
  ((List.range 8).foldl (spriteColumn cfg l) ⟨row, l.entry.prio⟩).row

/-- Entry `i` drawn on line `ly`, when it covers the line (R188). -/
def drawSprite (cfg : Config) (m : Memory) (ly : Nat) (row : Row) (i : Nat) : Row :=
  if (oamEntry m i).covers (spriteHeight (m.reg .lcdc)) ly then drawSpriteLine cfg (spriteLine m ly i) row else row

/-- All 40 entries in table order, later ones over earlier ones (R187). -/
def objRow (cfg : Config) (m : Memory) (ly : Nat) (row : Row) : Row :=
  (List.range oamEntries).foldl (drawSprite cfg m ly) row

/-- `renderObj(ly)` (R185). -/
def renderObj (ly : Fin 144) (s : State) : State :=
  s.setFb (s.fb.setRow ly (objRow s.cfg s.mem ly (s.fb.row ly)))

/-- RENDER_OBJ (R185): the sprites alone for the current LY; LCDC bit 1 is ignored. -/
def execRenderObj (s : State) : Host.Outcome State Fault Refusal := renderCurrentLine renderObj s

end Sys2Proof.Machine
end

