-- ==== Sys2Proof/Machine/Sequencer.lean ====
section
/-! DEFINITION. The timing state machine: ADVANCE and RENDER_LINE (spec/40_sequencer.md rules R131 to R146). -/

namespace Sys2Proof.Machine

/-- `RENDER_LINE_BODY(ly)`: the background if LCDC bit 0 is set, then the sprites if bit 1 is (R145). -/
def renderLineBody (ly : Fin 144) (s : State) : State :=
  let lcdc := s.reg .lcdc
  let s1 := if testBit lcdc 0 then renderBg ly s else s
  if testBit lcdc 1 then renderObj ly s1 else s1

/-- RENDER_LINE (R145). -/
def execRenderLine (s : State) : Host.Outcome State Fault Refusal := renderCurrentLine renderLineBody s

/-- What steps 1 to 3 of ADVANCE leave: the state, and whether they requested V-Blank and ended a frame. -/
structure Tick where
  state     : State
  irqV      : Bool
  frameDone : Bool
deriving DecidableEq, Repr

/-- Step 3 after the counter's reload: the next line. LY is incremented on an integer and written before any rendering;
144 requests V-Blank, above 153 wraps to 0 and ends the frame (R136, R138); a previous LY of 0-142 renders (R137). -/
def nextLine (s : State) : Tick :=
  let prevLY := (s.reg .ly).toNat
  let ly := prevLY + 1
  let wrap := decide (lastLine < ly)
  let s1 := s.writeReg .ly (if wrap then 0 else BitVec.ofNat 8 ly)
  { state := if h : prevLY ≤ 142 then renderLineBody ⟨prevLY + 1, by omega⟩ s1 else s1
    irqV := ly == vblankLine
    frameDone := wrap }

/-- Steps 1 to 3: hold the counter while disabled (R132); else subtract (R133), and on reaching zero or below reload it,
discarding the overshoot, and go to the next line (R134, R135). -/
def countdown (cycles : Nat) (s : State) : Tick :=
  if s.displayEnabled then
    let c := s.counter - cycles
    if c ≤ 0 then nextLine (s.setCounter lineBudget) else ⟨s.setCounter c, false, false⟩
  else ⟨s.setCounter lineBudget, false, false⟩

/-- Steps 4 to 6: the mode and the LYC match, both judged against `stat0` and the enable read before any mutation, the
requests they make and the STAT write-back (R139 to R144). -/
def updateStat (stat0 : Byte) (enabled : Bool) (t : Tick) : State :=
  let s := t.state
  let mode := modeOf enabled (s.reg .ly).toNat s.counter
  let isMatch := s.reg .ly == s.reg .lyc
  let irqS := modeEdge stat0 mode || lycRequest s.cfg.lycIrqMode stat0 isMatch
  (s.writeReg .stat (statWriteBack stat0 isMatch mode)).respond
    { err := false, data := 0, irqVblank := t.irqV, irqStat := irqS, frameDone := t.frameDone }

/-- One step of the timing state machine (R131). -/
def advance (cycles : Nat) (s : State) : State := updateStat (s.reg .stat) s.displayEnabled (countdown cycles s)

/-- ADVANCE (R131): never faults. -/
def execAdvance (cycles : Nat) (s : State) : Host.Outcome State Fault Refusal := .next (advance cycles s)

end Sys2Proof.Machine
end

