-- ==== Sys2Proof/Machine/Dispatch.lean ====
section
/-! DEFINITION. One arm for each command: the call of its meaning. -/

namespace Sys2Proof.Machine

def exec (i : Instr) (s : State) : Host.Outcome State Fault Refusal :=
  match i with
  | .advance cycles => Sys2Proof.Machine.execAdvance cycles s
  | .renderLine => Sys2Proof.Machine.execRenderLine s
  | .renderBg => Sys2Proof.Machine.execRenderBg s
  | .renderObj => Sys2Proof.Machine.execRenderObj s
  | .palLookup ci pal => Sys2Proof.Machine.execPalLookup ci pal s
  | .fbRead row col => Sys2Proof.Machine.execFbRead row col s
  | .fbClear => Sys2Proof.Machine.execFbClear s
  | .busw addr data => Sys2Proof.Machine.execBusw addr data s
  | .busr addr => Sys2Proof.Machine.execBusr addr s

end Sys2Proof.Machine
end

