-- ==== Sys2Proof/Machine/Step.lean ====
section
/-! DEFINITION. One step: the block takes the next command word from its port and runs it (spec/10_state.md rule R31;
spec/20_memory.md rule R80; spec/30_encoding.md rule R98). -/

namespace Sys2Proof.Machine

/-- Take a word from the port's head: the state the command runs in. -/
def State.takeWord (s : State) : State := { s with port := s.port.tail }

/-- Decode and run one command word; an illegal word executes as `raise Fault(IllegalCommand)` (R98). -/
def runWord (w : Word) (s : State) : Host.Outcome State Fault Refusal :=
  match decode w with
  | .ok i => exec i s
  | .error _ => raiseFault .illegalCommand s

/-- The block runs only the commands the host sends (R282): with none waiting it stays as it is. -/
def step (s : State) : Host.Outcome State Fault Refusal :=
  match s.port with
  | [] => .next s
  | w :: _ => runWord w s.takeWord

/-- The host sends a command word ahead of the words that wait: the very next step runs it. -/
def State.withFetchWord (s : State) (nbits w : Nat) : State := { s with port := tableWord nbits w :: s.port }

end Sys2Proof.Machine
end

