-- ==== Sys2Proof/WellFormed.lean ====
section
/-! DEFINITION. The operand ranges a command can carry (spec/30_encoding.md rules R97, R101: an operand out of its
range is an assembly error). An FB_READ outside the grid is well formed: it decodes, and faults when it runs (R99). -/

namespace Sys2Proof

def Instr.wf : Instr → Bool
  | .advance cycles => decide (cycles ≤ 65535)
  | .renderLine => true
  | .renderBg => true
  | .renderObj => true
  | .palLookup ci _ => decide (ci ≤ 3)
  | .fbRead row col => decide (row ≤ 255) && decide (col ≤ 255)
  | .fbClear => true
  | .busw _ _ => true
  | .busr _ => true

end Sys2Proof
end

