-- ==== Sys2Proof/Machine/Assembler.lean ====
section
/-! DEFINITION. The spec's assembler for command streams: one command a line, `;` starts a comment
(spec/30_encoding.md rules R101, R102; spec/92_eei_decisions.md D34). Text is a list of characters. -/

namespace Sys2Proof.Machine

/-- The pseudo-instructions (R102). -/
inductive Pseudo where
  | line
  | lines (k : Nat)
  | frame
  | fill (addr k : Nat) (v : Byte)
deriving DecidableEq, Repr

/-- The expansion of a pseudo-instruction (R102). -/
def Pseudo.expand : Pseudo → List Instr
  | .line => [.advance 456]
  | .lines k => List.replicate k (.advance 456)
  | .frame => List.replicate 154 (.advance 456)
  | .fill addr k v => (List.range k).map fun i => .busw (BitVec.ofNat 16 (addr + i)) v

/-- A `FILL` must end inside the address space: the address of its last write is an operand of a BUSW (R101, R102). -/
def Pseudo.wf : Pseudo → Bool
  | .line => true
  | .lines _ => true
  | .frame => true
  | .fill addr k _ => decide (addr + k ≤ 65536)

/-- The value of a digit in base 2, 10 or 16. -/
def digitValue (base : Nat) (c : Char) : Option Nat :=
  let v := if '0' ≤ c ∧ c ≤ '9' then c.toNat - 48
    else if 'A' ≤ c ∧ c ≤ 'F' then c.toNat - 55
    else if 'a' ≤ c ∧ c ≤ 'f' then c.toNat - 87
    else base
  if v < base then some v else none

/-- The value of a run of digits after the value `acc` of those before it. -/
def digitsFrom (base : Nat) : Nat → List Char → Option Nat
  | acc, [] => some acc
  | acc, c :: cs => (digitValue base c).bind fun v => digitsFrom base (base * acc + v) cs

/-- A number: decimal, or hexadecimal after `0x`, or binary after `0b` (R101). -/
def parseNumber : List Char → Option Nat
  | [] => none
  | ['0', 'x'] => none
  | ['0', 'b'] => none
  | '0' :: 'x' :: cs => digitsFrom 16 0 cs
  | '0' :: 'b' :: cs => digitsFrom 2 0 cs
  | cs => digitsFrom 10 0 cs

/-- A number no greater than a bound: an operand out of its range is an assembly error (R101). -/
def parseUpTo (max : Nat) (t : List Char) : Option Nat := (parseNumber t).filter fun n => decide (n ≤ max)

def parseByte (t : List Char) : Option Byte := (parseUpTo 255 t).map (BitVec.ofNat 8)

/-- The register names that stand for an address in BUSW and BUSR (R101, R33). -/
def regOfName (t : List Char) : Option Reg :=
  if t = ['L', 'C', 'D', 'C'] then some .lcdc
  else if t = ['S', 'T', 'A', 'T'] then some .stat
  else if t = ['S', 'C', 'Y'] then some .scy
  else if t = ['S', 'C', 'X'] then some .scx
  else if t = ['L', 'Y'] then some .ly
  else if t = ['L', 'Y', 'C'] then some .lyc
  else if t = ['B', 'G', 'P'] then some .bgp
  else if t = ['O', 'B', 'P', '0'] then some .obp0
  else if t = ['O', 'B', 'P', '1'] then some .obp1
  else if t = ['W', 'Y'] then some .wy
  else if t = ['W', 'X'] then some .wx
  else none

def parseAddr (t : List Char) : Option Addr :=
  match regOfName t with
  | some r => some (regAddr r)
  | none => (parseUpTo 65535 t).map (BitVec.ofNat 16)

/-- A finished token, kept in reverse while it is read. -/
def flushToken (t : List Char) : List (List Char) := if t.isEmpty then [] else [t.reverse]

/-- The tokens of a line: blanks separate, a comma is a token of its own, `;` ends the line. -/
def tokensFrom : List Char → List Char → List (List Char)
  | t, [] => flushToken t
  | t, c :: cs =>
    if c = ';' then flushToken t
    else if c = ' ' ∨ c = '\t' then flushToken t ++ tokensFrom [] cs
    else if c = ',' then flushToken t ++ [','] :: tokensFrom [] cs
    else tokensFrom (c :: t) cs

def checked (i : Instr) : Option (List Instr) := if i.wf then some [i] else none

def checkedPseudo (p : Pseudo) : Option (List Instr) := if p.wf then some p.expand else none

/-- A line without operands. -/
def parseNullary (m : List Char) : Option (List Instr) :=
  if m = ['R', 'E', 'N', 'D', 'E', 'R', '_', 'L', 'I', 'N', 'E'] then checked .renderLine
  else if m = ['R', 'E', 'N', 'D', 'E', 'R', '_', 'B', 'G'] then checked .renderBg
  else if m = ['R', 'E', 'N', 'D', 'E', 'R', '_', 'O', 'B', 'J'] then checked .renderObj
  else if m = ['F', 'B', '_', 'C', 'L', 'E', 'A', 'R'] then checked .fbClear
  else if m = ['L', 'I', 'N', 'E'] then checkedPseudo .line
  else if m = ['F', 'R', 'A', 'M', 'E'] then checkedPseudo .frame
  else none

/-- A line with one operand. -/
def parseUnary (m a : List Char) : Option (List Instr) :=
  if m = ['A', 'D', 'V', 'A', 'N', 'C', 'E'] then (parseNumber a).bind fun n => checked (.advance n)
  else if m = ['B', 'U', 'S', 'R'] then (parseAddr a).bind fun x => checked (.busr x)
  else if m = ['L', 'I', 'N', 'E', 'S'] then (parseNumber a).bind fun k => checkedPseudo (.lines k)
  else none

/-- A line with two operands. -/
def parseBinary (m a b : List Char) : Option (List Instr) :=
  if m = ['P', 'A', 'L', '_', 'L', 'O', 'O', 'K', 'U', 'P'] then
    (parseNumber a).bind fun ci => (parseByte b).bind fun p => checked (.palLookup ci p)
  else if m = ['F', 'B', '_', 'R', 'E', 'A', 'D'] then
    (parseNumber a).bind fun row => (parseNumber b).bind fun col => checked (.fbRead row col)
  else if m = ['B', 'U', 'S', 'W'] then
    (parseAddr a).bind fun x => (parseByte b).bind fun v => checked (.busw x v)
  else none

/-- A line with three operands. -/
def parseTernary (m a b c : List Char) : Option (List Instr) :=
  if m = ['F', 'I', 'L', 'L'] then
    (parseUpTo 65535 a).bind fun x => (parseNumber b).bind fun k => (parseByte c).bind fun v => checkedPseudo (.fill x k v)
  else none

/-- The commands a line stands for, or none where the line is an assembly error (R101, R102). -/
def parseLine (text : List Char) : Option (List Instr) :=
  match tokensFrom [] text with
  | [] => some []
  | [m] => parseNullary m
  | [m, a] => parseUnary m a
  | [m, a, [','], b] => parseBinary m a b
  | [m, a, [','], b, [','], c] => parseTernary m a b c
  | _ => none

/-- The command stream of a program's lines, as words for the command port. -/
def assemble : List (List Char) → Option (List Word)
  | [] => some []
  | line :: rest => (parseLine line).bind fun is => (assemble rest).map fun ws => is.map encode ++ ws

end Sys2Proof.Machine
end

