-- ==== Sys2Proof/Machine/Collaborators.lean ====
section
/-! DEFINITION. What the collaborators do between the block's commands, each with the OPEN parameter the spec gives it as an
argument: the CPU's own path to memory (`ModeAccessPolicy`, `CpuWritePolicy`; spec/20_memory.md rule R71,
spec/44_host_port.md rule R238, spec/92_eei_decisions.md D30, D31) and its handling of interrupt requests (`IrqSink`;
spec/60_exceptions.md rules R250, R253 to R256, D32), and the display's presentation (R220). The block's step calls none of them. -/

namespace Sys2Proof.Machine

/-- `ModeAccessPolicy` (OPEN, D31): which of the CPU's accesses are let through, and what a restricted read
returns. What a restricted write does is no part of it: `State.cpuWrite` drops it (log entry 14). -/
structure ModeAccessPolicy where
  mayRead     : State → Addr → Bool
  mayWrite    : State → Addr → Bool
  blockedRead : State → Addr → Byte

/-- `CpuWritePolicy` (OPEN, D30): the byte the collaborator finally stores for a CPU write to LY or to STAT, from the byte
held there and the byte written. -/
structure CpuWritePolicy where
  lyStores   : Byte → Byte → Byte
  statStores : Byte → Byte → Byte

/-- The byte finally stored for a CPU write: only LY and STAT are treated specially (D30). -/
def CpuWritePolicy.stored (w : CpuWritePolicy) (a : Addr) (held written : Byte) : Byte :=
  if a = regAddr .ly then w.lyStores held written
  else if a = regAddr .stat then w.statStores held written
  else written

/-- The CPU's `write(addr, byte)` (R71): where the policy lets it through, the byte finally stored takes the effect of a BUSW
on memory (R238). DESIGN CHOICE, unsafe: a restricted write is dropped with no effect, and `CpuWritePolicy` is not asked; the
spec states no effect of it (D31; log entry 14). -/
def State.cpuWrite (s : State) (p : ModeAccessPolicy) (w : CpuWritePolicy) (a : Addr) (v : Byte) : State :=
  if p.mayWrite s a then s.writeDirectly a (w.stored a (s.readDirectly a) v) else s

/-- The CPU's `read(addr)` (R71). -/
def State.cpuRead (s : State) (p : ModeAccessPolicy) (a : Addr) : Byte :=
  if p.mayRead s a then s.readDirectly a else p.blockedRead s a

/-- `IrqSink` (OPEN, D32): what the CPU collaborator makes of a command's response, in a state of its own. -/
abbrev IrqSink (σ : Type) := Response → σ → σ

/-- The CPU's two pending flags. They are the CPU's and no state of the block (R50, R253). -/
structure Pending where
  vblank  : Bool
  lcdStat : Bool
deriving DecidableEq, Repr

/-- The sink the source describes: a request sets the pending flag of its kind, and requests of one kind merge (R250, R254). -/
def pendingSink : IrqSink Pending := fun r p => ⟨p.vblank || r.irqVblank, p.lcdStat || r.irqStat⟩

/-- A step with its response handed to the CPU collaborator; a step that ran no command has no response to hand over. -/
def stepWithSink {σ : Type} (sink : IrqSink σ) (c : σ) (s : State) : Option (σ × State) :=
  match step s with
  | .next t => some (if s.port.isEmpty then c else sink t.resp c, t)
  | .fault _ => none
  | .refused _ => none

/-- What the display collaborator presents after a step: the frame buffer, once for each completed frame (R138, R220). -/
def presentedFrame (s : State) : Option Frame :=
  match step s with
  | .next t => if !s.port.isEmpty && t.resp.frameDone then some t.fb else none
  | .fault _ => none
  | .refused _ => none

end Sys2Proof.Machine
end

