-- ==== Sys2Proof/Safety.lean ====
section
/-! DEFINITION. What claims about the machine are stated with: the invariant of every run, a clean run, and a STAT
register that is up to date. -/

namespace Sys2Proof.Machine

/-- The responses a command can give: a faulting command's is the error response and nothing else (R262), data and
requests never come together, and a frame does not end where V-Blank begins (R52, R136). -/
structure Response.Legal (r : Response) : Prop where
  error_only : r.err = true → r = Response.error
  requests_without_data : (r.irqVblank || r.irqStat || r.frameDone) = true → r.data = 0
  vblank_or_done : ¬ (r.irqVblank = true ∧ r.frameDone = true)

/-- What holds between commands: memory in its canonical form, `1 ≤ counter ≤ 456` (R46), a legal last response. -/
structure State.Inv (s : State) : Prop where
  mem_wf : s.mem.wf = true
  counter_pos : 1 ≤ s.counter
  counter_le : s.counter ≤ 456
  resp_legal : s.resp.Legal

/-- A run is clean so far when no command of it faulted (R262). -/
def State.clean (s : State) : Bool := s.faults.isEmpty

/-- STAT bits 2-0 show the machine's mode and LYC match, as they do after every ADVANCE (R48, R49). -/
structure State.StatCurrent (s : State) : Prop where
  mode : statMode (s.reg .stat) = modeNumber s.ppuState
  lycMatch : statMatch (s.reg .stat) = (s.reg .ly == s.reg .lyc)

/-- The causes of an LCD-STAT request in an ADVANCE from `s` to `t`: a change to a mode whose enable bit is set (R140), or
an LYC match with STAT bit 6 set, in `Edge` mode only when the old match bit was 0 (R143). -/
def LcdStatCause (s t : State) : Prop :=
  (statMode (t.reg .stat) ≠ statMode (s.reg .stat) ∧
    ((statMode (t.reg .stat) = 2 ∧ testBit (s.reg .stat) 5 = true) ∨
      (statMode (t.reg .stat) = 0 ∧ testBit (s.reg .stat) 3 = true) ∨
      (statMode (t.reg .stat) = 1 ∧ testBit (s.reg .stat) 4 = true))) ∨
  (t.reg .ly = s.reg .lyc ∧ testBit (s.reg .stat) 6 = true ∧
    (s.cfg.lycIrqMode = .level ∨ testBit (s.reg .stat) 2 = false))

/-- Screen column `c` of a sprite is drawn unless the priority rule hides it: one of its eight columns, and no
transparent pixel (R192, R197). -/
def SpriteLine.Opaque (l : SpriteLine) (cfg : Config) (c : Nat) : Prop :=
  c < 8 ∧ transparent cfg.objTransparency (l.ci c) l.palette = false

/-- Column `c` of a sprite lies on the screen over a pixel of `row` that is not WHITE (R194, R198). -/
def SpriteLine.OverNonWhite (l : SpriteLine) (row : Row) (c : Nat) : Prop :=
  ∃ sx : Fin 160, l.column c = some sx ∧ row[sx] ≠ white

/-- Commands run one after another by `exec`, as long as each answers a next state. -/
def runCommands : List Instr → State → Option State
  | [], s => some s
  | i :: is, s =>
    match exec i s with
    | .next t => runCommands is t
    | .fault _ => none
    | .refused _ => none

end Sys2Proof.Machine
end

