-- ==== Sys2Proof/Certificates/Slice0/Obligations.lean ====
section
/-! DEFINITION. The statements about the machine, from the spec's numbered rules. -/

open Sys2Proof Sys2Proof.Machine

/-! ## Encoding and the step -/

/-- R96, R97, R98: decoding the encoding of a well-formed command gives it back, with every operand at every value. -/
def Obligations.DecodeOfEncodeIsTheCommand : Prop :=
  ∀ i : Instr, i.wf = true → decode (encode i) = .ok i

/-- R96, R98: a word that decodes is the encoding of the well-formed command it decodes to, so no bit of it is dropped. -/
def Obligations.EncodeOfDecodeIsTheWord : Prop :=
  ∀ (w : Word) (i : Instr), decode w = .ok i → i.wf = true ∧ encode i = w

/-- R96, R98, R99 and opcode_table.json: a word decodes exactly when it matches a row of the opcode table, which is then its
command's row and the only one it matches; operation codes 0x9 to 0xF are rejected as reserved. -/
def Obligations.DecodesExactlyTheOpcodeTable : Prop :=
  ∀ w : Word,
    ((∃ i, decode w = .ok i) ↔ ∃ r ∈ opcodeTable, r.matches w = true) ∧
    (∀ i, decode w = .ok i → ∀ r ∈ opcodeTable, r.matches w = true → r = i.row) ∧
    (9 ≤ (w.extractLsb' 28 4).toNat → decode w = .error .reservedOp)

/-- R96: words written out from the format table decode to the commands they stand for (spec/95_test_vectors.md L1, L2). -/
def Obligations.SampleWordsDecodeAsWritten : Prop :=
  decode 0x000001C8 = .ok (.advance 456) ∧ decode 0x10000000 = .ok .renderLine ∧ decode 0x20000000 = .ok .renderBg ∧
  decode 0x30000000 = .ok .renderObj ∧ decode 0x400002E4 = .ok (.palLookup 2 0xE4) ∧
  decode 0x50008F9F = .ok (.fbRead 143 159) ∧ decode 0x60000000 = .ok .fbClear ∧
  decode 0x701234AB = .ok (.busw 0x1234 0xAB) ∧ decode 0x80FF4400 = .ok (.busr 0xFF44)

/-- R31, R80, R95, R98: a step takes the next word from the port and runs the command it decodes to. The port as a list whose
head a step takes and whose tail it leaves is the model's choice (log entry 1). -/
def Obligations.StepRunsTheDecodedCommand : Prop :=
  ∀ (s : State) (w : Word) (rest : List Word) (i : Instr), s.port = w :: rest → decode w = .ok i →
    step s = exec i { s with port := rest }

/-- R98, R262: a word that is no command executes as `raise Fault(IllegalCommand)`: recorded, answered with `err = 1`, and
nothing else changed. The port and the record are the model's (log entries 1 and 5). -/
def Obligations.IllegalWordIsRecordedAndAnswered : Prop :=
  ∀ (s : State) (w : Word) (rest : List Word) (e : DecodeReject), s.port = w :: rest → decode w = .error e →
    step s = .next { s with port := rest, resp := ⟨true, 0, false, false, false⟩, faults := .illegalCommand :: s.faults }

/-- R282: the block runs only the commands the host sends. That it stays as it is while none waits is the model's choice
(log entry 3). -/
def Obligations.StepWithoutCommandChangesNothing : Prop :=
  ∀ s : State, s.port = [] → step s = .next s

/-- R260, R262: no command stops the block. The model's choices: every step of every state is a next state, a faulting
command's too (log entry 5) and that of an empty port (log entry 3); the port loses its first word where it has one (log
entry 1); the parameters are kept (log entry 6). -/
def Obligations.EveryStepGoesOn : Prop :=
  ∀ s : State, ∃ t, step s = .next t ∧ t.port = s.port.tail ∧ t.cfg = s.cfg

/-! ## The invariant, reset, and rules over all commands -/

/-- R46, R52, R72, R262: the invariant (canonical memory, `1 ≤ counter ≤ 456`, a legal response) is kept by every step. The
canonical form and the stored response are the model's (log entries 2 and 4). -/
def Obligations.EveryStepKeepsTheInvariant : Prop :=
  ∀ s t : State, s.Inv → step s = .next t → t.Inv

/-- R46, R280: the invariant holds after reset, whatever the parameters and whatever initial memory in canonical form. The
canonical form and the stored response are the model's (log entries 2 and 4). -/
def Obligations.ResetMeetsTheInvariant : Prop :=
  State.reset.Inv ∧ ∀ (cfg : Config) (image : Memory), image.wf = true → (State.resetWith cfg image).Inv

/-- R280: reset loads the counter, fills the frame buffer with `FbInitColour`, clears every response field and writes no
memory; the default colour is WHITE. -/
def Obligations.ResetLoadsCounterFrameAndResponse : Prop :=
  (∀ (cfg : Config) (image : Memory) (r : Fin 144) (c : Fin 160),
    (State.resetWith cfg image).counter = 456 ∧ ((State.resetWith cfg image).fb.row r)[c] = cfg.fbInitColour ∧
    (State.resetWith cfg image).resp = ⟨false, 0, false, false, false⟩ ∧
    ∀ a : Addr, (State.resetWith cfg image).readDirectly a = image.read a.toNat) ∧
  State.reset.cfg.fbInitColour = ⟨255, 255, 255⟩

/-- R283: the reference start state. Its register values are the spec's choice for tests, not the hardware's (log entry 2). -/
def Obligations.ReferenceStartState : Prop :=
  State.reset.counter = 456 ∧ (∀ r : Reg, State.reset.reg r = 0) ∧
  ∀ (r : Fin 144) (c : Fin 160), (State.reset.fb.row r)[c] = ⟨255, 255, 255⟩

/-- R52, R237, R252: only ADVANCE requests an interrupt, ends a frame or changes the counter. -/
def Obligations.OnlyAdvanceMovesTimeAndMakesRequests : Prop :=
  ∀ (i : Instr) (s t : State), (∀ n, i ≠ .advance n) → exec i s = .next t →
    t.counter = s.counter ∧ t.resp.irqVblank = false ∧ t.resp.irqStat = false ∧ t.resp.frameDone = false

/-- R37, R74, R81: the only memory writes are LY and STAT in ADVANCE and the addressed byte in BUSW. -/
def Obligations.MemoryWritersAreAdvanceAndBusw : Prop :=
  ∀ (i : Instr) (s t : State) (a : Addr), s.mem.wf = true → exec i s = .next t → t.readDirectly a ≠ s.readDirectly a →
    ((∃ n, i = .advance n) ∧ (a = regAddr .ly ∨ a = regAddr .stat)) ∨ ∃ v, i = .busw a v

/-- R145, R221: a row of the frame buffer changes only by FB_CLEAR, by a RENDER command on row LY, or by an ADVANCE whose
new LY is that row. -/
def Obligations.FrameBufferWriters : Prop :=
  ∀ (i : Instr) (s t : State) (r : Fin 144), s.mem.wf = true → exec i s = .next t → t.fb.row r ≠ s.fb.row r →
    i = .fbClear ∨ ((i = .renderLine ∨ i = .renderBg ∨ i = .renderObj) ∧ (s.reg .ly).toNat = r) ∨
    ((∃ n, i = .advance n) ∧ (s.reg .ly).toNat + 1 = r ∧ (t.reg .ly).toNat = r)

/-- R262: a faulting command changes no memory, counter, frame buffer or parameter, answers `err = 1` and zeros, and leaves
one more record; a command that does not fault records nothing. The record and the port are the model's (log entries 1 and 5). -/
def Obligations.FaultingStepChangesNothingElse : Prop :=
  ∀ s t : State, s.port ≠ [] → step s = .next t →
    (t.resp.err = true →
      t = { s with port := s.port.tail, resp := ⟨true, 0, false, false, false⟩, faults := t.faults } ∧
      ∃ f, t.faults = f :: s.faults) ∧
    (t.resp.err = false → t.faults = s.faults)

/-- R260, R262: the commands that fault are the RENDER commands with LY ≥ 144 and FB_READ outside the grid. -/
def Obligations.CommandsFaultExactlyWhereTheTableSays : Prop :=
  ∀ (i : Instr) (s t : State), exec i s = .next t →
    (t.resp.err = true ↔
      ((i = .renderLine ∨ i = .renderBg ∨ i = .renderObj) ∧ 144 ≤ (s.reg .ly).toNat) ∨
      ∃ row col, i = .fbRead row col ∧ (144 ≤ row ∨ 160 ≤ col))

/-! ## Memory, the host port and the collaborators -/

/-- R235: BUSW stores the byte and answers ok; every other byte, the counter, the frame buffer and the rest stay. -/
def Obligations.BuswStoresOneByte : Prop :=
  ∀ (s : State) (a : Addr) (v : Byte), s.mem.wf = true →
    ∃ t, exec (.busw a v) s = .next t ∧ t = { s with mem := t.mem, resp := ⟨false, 0, false, false, false⟩ } ∧
      t.readDirectly a = v ∧ ∀ b : Addr, b ≠ a → t.readDirectly b = s.readDirectly b

/-- R239: BUSR answers `{0x0000 : byte}` and changes no state. -/
def Obligations.BusrReturnsTheByte : Prop :=
  ∀ (s : State) (a : Addr),
    exec (.busr a) s = .next { s with resp := ⟨false, 0#16 ++ s.readDirectly a, false, false, false⟩ }

/-- R72: after any list of writes from reset, a byte reads as the last one written to its address, or as `InitMem` holds it
where nothing wrote it. The canonical form asked of `InitMem` is the model's (log entry 2). -/
def Obligations.MemoryReturnsTheLastByteWritten : Prop :=
  ∀ (cfg : Config) (image : Memory) (ws : List (Addr × Byte)) (a : Addr), image.wf = true →
    ∃ t, runCommands (ws.map fun p => .busw p.1 p.2) (State.resetWith cfg image) = some t ∧
      t.readDirectly a = ((ws.reverse.find? fun p => p.1 == a).map Prod.snd).getD (image.read a.toNat)

/-- R72, R73: two memories in canonical form that read the same at every address are the same data. The form is the model's
(log entry 2). -/
def Obligations.MemoriesThatReadAlikeAreEqual : Prop :=
  ∀ m m' : Memory, m.wf = true → m'.wf = true → (∀ a : Addr, m.read a.toNat = m'.read a.toNat) → m = m'

/-- R33: each of the eleven registers is the byte at its address, none is at 0xFF46, and writing one writes that byte and
changes no other register. The addresses are the spec's general knowledge (log entry 7). -/
def Obligations.RegistersAreSeparateBytes : Prop :=
  ∀ s : State,
    (s.reg .lcdc = s.readDirectly 0xFF40 ∧ s.reg .stat = s.readDirectly 0xFF41 ∧ s.reg .scy = s.readDirectly 0xFF42 ∧
      s.reg .scx = s.readDirectly 0xFF43 ∧ s.reg .ly = s.readDirectly 0xFF44 ∧ s.reg .lyc = s.readDirectly 0xFF45 ∧
      s.reg .bgp = s.readDirectly 0xFF47 ∧ s.reg .obp0 = s.readDirectly 0xFF48 ∧ s.reg .obp1 = s.readDirectly 0xFF49 ∧
      s.reg .wy = s.readDirectly 0xFF4A ∧ s.reg .wx = s.readDirectly 0xFF4B) ∧
    (s.mem.wf = true → ∀ (r r' : Reg) (v : Byte),
      (s.writeReg r v).reg r' = (if r' = r then v else s.reg r') ∧
      (∀ a : Addr, a ≠ regAddr r → (s.writeReg r v).readDirectly a = s.readDirectly a) ∧
      (s.writeReg r v).readDirectly 0xFF46 = s.readDirectly 0xFF46)

/-- R20, R21: the laws of set, clear, toggle, test and clearAll at every bit index. -/
def Obligations.BitRegisterLaws : Prop :=
  ∀ (r : Byte) (i j : Nat), i < 8 → j < 8 →
    testBit (setBit r i) i = true ∧ testBit (clearBit r i) i = false ∧ toggleBit (toggleBit r i) i = r ∧
    testBit (toggleBit r i) i = !testBit r i ∧ testBit (clearAll r) i = false ∧
    (j ≠ i → testBit (setBit r i) j = testBit r j ∧ testBit (clearBit r i) j = testBit r j ∧
      testBit (toggleBit r i) j = testBit r j)

/-- R71, R238: a CPU write that its policy lets through has the effect on the block of a BUSW of the byte the collaborator
finally stores. Both policies are arguments (log entry 11). That a restricted write is dropped is the model's choice (log
entry 14). -/
def Obligations.CpuWriteActsAsBusw : Prop :=
  ∀ (p : ModeAccessPolicy) (w : CpuWritePolicy) (s : State) (a : Addr) (v : Byte),
    (p.mayWrite s a = true →
      ∃ t, exec (.busw a (w.stored a (s.readDirectly a) v)) s = .next t ∧ s.cpuWrite p w a v = { s with mem := t.mem }) ∧
    (p.mayWrite s a = false → s.cpuWrite p w a v = s)

/-- R250, R253, R254, R256: a step sets the pending flag of each kind its command requested and clears none. The model's
choices: the flags and their sink stand beside the step (log entry 11), and a step of an empty port runs no command (log
entry 3) and hands nothing over. -/
def Obligations.PendingFlagsMergeRequests : Prop :=
  ∀ (p q : Pending) (s t : State), stepWithSink pendingSink p s = some (q, t) →
    (s.port = [] → q = p) ∧
    (s.port ≠ [] → (q.vblank = true ↔ p.vblank = true ∨ t.resp.irqVblank = true) ∧
      (q.lcdStat = true ↔ p.lcdStat = true ∨ t.resp.irqStat = true))

/-- R102: the expansion of `FILL addr, k, v` writes v to the k bytes from addr on and to no other. -/
def Obligations.FillWritesItsBytes : Prop :=
  ∀ (s : State) (addr k : Nat) (v : Byte) (b : Addr), s.mem.wf = true → (Pseudo.fill addr k v).wf = true →
    ∃ t, runCommands (Pseudo.fill addr k v).expand s = some t ∧
      t.readDirectly b = if addr ≤ b.toNat ∧ b.toNat < addr + k then v else s.readDirectly b

/-! ## Palette and frame buffer -/

/-- R106, R107, R215, R216: PAL_LOOKUP answers the colour of the shade in the palette's field, packed R, G, B, and changes
nothing else. -/
def Obligations.PalLookupReturnsTheShade : Prop :=
  ∀ (s : State) (ci : Nat) (p : Byte), ci ≤ 3 →
    ∃ d : BitVec 24,
      exec (.palLookup ci p) s = .next { s with resp := ⟨false, d, false, false, false⟩ } ∧
      (p.toNat / 4 ^ ci % 4 = 0 → d = 0xFFFFFF) ∧ (p.toNat / 4 ^ ci % 4 = 1 → d = 0xCCCCCC) ∧
      (p.toNat / 4 ^ ci % 4 = 2 → d = 0x777777) ∧ (p.toNat / 4 ^ ci % 4 = 3 → d = 0x000000)

/-- R218: palette 0xE4 maps every index to itself and palette 0 maps every index to shade 0, white. -/
def Obligations.PaletteTables : Prop :=
  ∀ ci, ci < 4 → (shade ci 0xE4).toNat = ci ∧ (shade ci 0x00).toNat = 0 ∧ pal ci 0x00 = ⟨255, 255, 255⟩

/-- R219: FB_READ answers the pixel as `{R : G : B}` inside the grid, and is BadPixel outside; no state changes. The record of the
fault is the model's (log entry 5). -/
def Obligations.FbReadReturnsThePixel : Prop :=
  (∀ (s : State) (row : Fin 144) (col : Fin 160), ∃ d : BitVec 24,
    exec (.fbRead row col) s = .next { s with resp := ⟨false, d, false, false, false⟩ } ∧
    d.extractLsb' 16 8 = (s.fb.row row)[col].r ∧ d.extractLsb' 8 8 = (s.fb.row row)[col].g ∧
    d.extractLsb' 0 8 = (s.fb.row row)[col].b) ∧
  ∀ (s : State) (row col : Nat), 144 ≤ row ∨ 160 ≤ col →
    exec (.fbRead row col) s =
      .next { s with resp := ⟨true, 0, false, false, false⟩, faults := .badPixel :: s.faults }

/-- R223: FB_CLEAR fills the frame buffer with `FbInitColour` and leaves memory, the counter and the rest. -/
def Obligations.FbClearFillsTheFrame : Prop :=
  ∀ s : State, ∃ t, exec .fbClear s = .next t ∧ t = { s with fb := t.fb, resp := ⟨false, 0, false, false, false⟩ } ∧
    ∀ (r : Fin 144) (c : Fin 160), (t.fb.row r)[c] = s.cfg.fbInitColour

/-! ## Background and window -/

/-- R160 to R168: RENDER_BG writes the 160 pixels of row LY, each from the map, tile, bit planes and palette the spec
names, and nothing else. -/
def Obligations.RenderBgWritesEveryPixelOfTheRow : Prop :=
  ∀ (s : State) (ly : Fin 144), (s.reg .ly).toNat = ly →
    ∃ t, exec .renderBg s = .next t ∧ t = { s with fb := t.fb, resp := ⟨false, 0, false, false, false⟩ } ∧
      (∀ r, r ≠ ly → t.fb.row r = s.fb.row r) ∧
      ∀ sx : Fin 160,
        let lcdc := s.reg .lcdc
        let wy := (s.reg .wy).toNat
        let wx := (s.reg .wx).toNat
        let win := testBit lcdc 5 = true ∧ wy ≤ ly ∧ wx ≤ sx + 7
        let py := if win then ly - wy else ((s.reg .scy).toNat + ly) % 256
        let px := if win then sx + 7 - wx else (sx + (s.reg .scx).toNat) % 256
        let sel := if win then testBit lcdc 6 else testBit lcdc 3
        let idx := (s.mem.read ((if sel then 0x9C00 else 0x9800) + 32 * (py / 8) + px / 8)).toNat
        let tile := if testBit lcdc 4 = false ∧ idx < 128 then 0x9000 + 16 * idx else 0x8000 + 16 * idx
        let lo := s.mem.read (tile + 2 * (py % 8))
        let hi := s.mem.read (tile + 2 * (py % 8) + 1)
        (t.fb.row ly)[sx] =
          pal (2 * (testBit hi (7 - px % 8)).toNat + (testBit lo (7 - px % 8)).toNat) (s.reg .bgp)

/-- R81: RENDER_BG is idempotent: run again it leaves the state it left. -/
def Obligations.RenderBgTwiceIsRenderBgOnce : Prop :=
  ∀ s t : State, (s.reg .ly).toNat < 144 → exec .renderBg s = .next t → exec .renderBg t = .next t

/-- R74: the row RENDER_BG draws depends on LCDC, LY, SCY, SCX, WY, WX, BGP and the bytes 0x8000 to 0x9FFF alone, whatever the
frame buffers and the rest hold. (The other rows it leaves as they are: `RenderBgWritesEveryPixelOfTheRow`.) -/
def Obligations.RenderBgReadsOnlyItsBytes : Prop :=
  ∀ (s s' t t' : State) (ly : Fin 144), (s.reg .ly).toNat = ly →
    (∀ r, r ∈ [Reg.lcdc, Reg.ly, Reg.scy, Reg.scx, Reg.wy, Reg.wx, Reg.bgp] → s.reg r = s'.reg r) →
    (∀ a, 0x8000 ≤ a → a ≤ 0x9FFF → s.mem.read a = s'.mem.read a) →
    exec .renderBg s = .next t → exec .renderBg s' = .next t' → t.fb.row ly = t'.fb.row ly

/-- R75, R165, R170: background tile addresses under both addressing modes, with the sign quirk at index 0xFF. -/
def Obligations.BackgroundTileAddresses : Prop :=
  (∀ idx : Byte, bgTileAddr true idx = 0x8000 + 16 * idx.toNat ∧
    bgTileAddr false idx = if idx.toNat < 128 then 0x9000 + 16 * idx.toNat else 0x8000 + 16 * idx.toNat) ∧
  bgTileAddr true 0xFF = 0x8FF0 ∧ bgTileAddr false 0xFF = 0x8FF0

/-- R75, R76, R88: every address the renderers form lies where the map says: background map entries in 0x9800-0x9FFF,
background tile rows in 0x8000-0x97FF, sprite rows in 0x8000-0x900F, OAM entries in 0xFE00-0xFE9F. -/
def Obligations.RendererAddressesStayInTheMap : Prop :=
  (∀ (m : Memory) (ly : Fin 144) (sx : Fin 160),
    let c := (bgRegs m).source ly sx
    0x9800 ≤ c.mapAddr ∧ c.mapAddr ≤ 0x9FFF ∧
    0x8000 ≤ c.rowAddr (bgRegs m) m ∧ c.rowAddr (bgRegs m) m + 1 ≤ 0x97FF) ∧
  ∀ (m : Memory) (ly : Fin 144) (i : Nat), i < oamEntries →
    (0xFE00 ≤ oamBase + 4 * i ∧ oamBase + 4 * i + 3 ≤ 0xFE9F) ∧
    ((oamEntry m i).covers (spriteHeight (m.reg .lcdc)) ly = true →
      let a := objRowAddr (oamEntry m i).tile ((oamEntry m i).rowOn (spriteHeight (m.reg .lcdc)) ly)
      0x8000 ≤ a ∧ a + 1 ≤ 0x900F)

/-! ## Sprites -/

/-- R185 to R188: RENDER_OBJ draws every entry of the table that covers row LY, in table order, over that row and nothing
else. -/
def Obligations.RenderObjDrawsEveryCoveringEntry : Prop :=
  ∀ (s : State) (ly : Fin 144), (s.reg .ly).toNat = ly →
    ∃ t, exec .renderObj s = .next t ∧ t = { s with fb := t.fb, resp := ⟨false, 0, false, false, false⟩ } ∧
      (∀ r, r ≠ ly → t.fb.row r = s.fb.row r) ∧
      t.fb.row ly = (List.range 40).foldl (fun row i =>
        let y := (s.mem.read (0xFE00 + 4 * i)).toNat
        if y ≤ ly + 16 ∧ ly + 16 < y + (if testBit (s.reg .lcdc) 2 then 16 else 8)
        then drawSpriteLine s.cfg (spriteLine s.mem ly i) row else row) (s.fb.row ly)

/-- R44, R104, R189 to R192: what a covering entry shows on a line: its tile row after Y-flip, its palette, its priority
bit, and for each of its eight columns the colour index after X-flip and the screen column. -/
def Obligations.SpriteLineIsAssembledFromItsEntry : Prop :=
  ∀ (m : Memory) (ly : Fin 144) (i c : Nat),
    let y := (m.read (0xFE00 + 4 * i)).toNat
    let x := (m.read (0xFE00 + 4 * i + 1)).toNat
    let tile := (m.read (0xFE00 + 4 * i + 2)).toNat
    let attr := m.read (0xFE00 + 4 * i + 3)
    let h := if testBit (m.reg .lcdc) 2 then 16 else 8
    let row := if testBit attr 6 then h - 1 - (ly + 16 - y) else ly + 16 - y
    let lo := m.read (0x8000 + 16 * tile + 2 * row)
    let hi := m.read (0x8000 + 16 * tile + 2 * row + 1)
    let b := if testBit attr 5 then c else 7 - c
    y ≤ ly + 16 → ly + 16 < y + h → c < 8 →
      (spriteLine m ly i).ci c = 2 * (testBit hi b).toNat + (testBit lo b).toNat ∧
      (spriteLine m ly i).palette = (if testBit attr 4 then m.reg .obp1 else m.reg .obp0) ∧
      (spriteLine m ly i).entry.prio = testBit attr 7 ∧
      ∀ sx : Fin 160, (spriteLine m ly i).column c = some sx ↔ (sx : Nat) + 8 = x + c

/-- R188: the Y bytes whose sprite covers no visible line. -/
def Obligations.SpritesThatCoverNoVisibleLine : Prop :=
  ∀ (m : Memory) (i : Nat),
    let y := (m.read (oamBase + 4 * i)).toNat
    ((∀ ly, ly < 144 → (oamEntry m i).covers 8 ly = false) ↔ y ≤ 8 ∨ 160 ≤ y) ∧
    ((∀ ly, ly < 144 → (oamEntry m i).covers 16 ly = false) ↔ y = 0 ∨ 160 ≤ y)

/-- R198: a sprite whose X byte is 0 or at least 168 is wholly off the screen and draws nothing. -/
def Obligations.SpritesOffTheScreenDrawNothing : Prop :=
  ∀ (cfg : Config) (m : Memory) (ly i : Nat) (row : Row),
    (m.read (oamBase + 4 * i + 1)).toNat = 0 ∨ 168 ≤ (m.read (oamBase + 4 * i + 1)).toNat →
    drawSprite cfg m ly row i = row

/-- R197: a transparent pixel is not drawn, and every other pixel of a sprite without priority is (R193), under each of
the three transparency parameters; pixels the sprite does not reach keep their colour. -/
def Obligations.TransparencyDecidesWhatIsDrawn : Prop :=
  ∀ (cfg : Config) (l : SpriteLine) (row : Row) (sx : Fin 160),
    ((∀ c, c < 8 → l.column c ≠ some sx) → (drawSpriteLine cfg l row)[sx] = row[sx]) ∧
    ∀ c, c < 8 → l.column c = some sx →
      (((cfg.objTransparency = .index0 ∧ l.ci c = 0) ∨
          (cfg.objTransparency = .shade0 ∧ l.palette.toNat / 4 ^ l.ci c % 4 = 0)) →
        (drawSpriteLine cfg l row)[sx] = row[sx]) ∧
      (l.entry.prio = false →
        (cfg.objTransparency = .none ∨ (cfg.objTransparency = .index0 ∧ l.ci c ≠ 0) ∨
          (cfg.objTransparency = .shade0 ∧ l.palette.toNat / 4 ^ l.ci c % 4 ≠ 0)) →
        (drawSpriteLine cfg l row)[sx] = pal (l.ci c) l.palette)

/-- R193 to R195: under `Scenario`, the default, a pixel of a priority sprite is written exactly when it or an earlier one of its row is
an opaque on-screen pixel over non-WHITE. -/
def Obligations.ScenarioShowsFromTheFirstNonWhite : Prop :=
  defaultConfig.prioVariant = .scenario ∧
  ∀ (cfg : Config) (l : SpriteLine) (row : Row) (c : Nat) (sx : Fin 160),
    cfg.prioVariant = .scenario → l.entry.prio = true → l.Opaque cfg c → l.column c = some sx →
      ((∃ c', c' ≤ c ∧ l.Opaque cfg c' ∧ l.OverNonWhite row c') →
        (drawSpriteLine cfg l row)[sx] = pal (l.ci c) l.palette) ∧
      ((∀ c', c' ≤ c → l.Opaque cfg c' → ¬ l.OverNonWhite row c') → (drawSpriteLine cfg l row)[sx] = row[sx])

/-- R193, R194, R196: under `Prose` a pixel of a priority sprite is suppressed exactly when it is the first opaque
on-screen pixel of its row over non-WHITE. -/
def Obligations.ProseHidesOnlyTheFirstNonWhite : Prop :=
  ∀ (cfg : Config) (l : SpriteLine) (row : Row) (c : Nat) (sx : Fin 160),
    cfg.prioVariant = .prose → l.entry.prio = true → l.Opaque cfg c → l.column c = some sx →
      ((row[sx] ≠ white ∧ ∀ c', c' < c → l.Opaque cfg c' → ¬ l.OverNonWhite row c') →
        (drawSpriteLine cfg l row)[sx] = row[sx]) ∧
      ((row[sx] = white ∨ ∃ c', c' < c ∧ l.Opaque cfg c' ∧ l.OverNonWhite row c') →
        (drawSpriteLine cfg l row)[sx] = pal (l.ci c) l.palette)

/-- R201: the source's priority scenario under both variants: one opaque priority sprite at (0, 0) over WHITE, BLACK and
then WHITE. No other entry covers line 0 (their Y bytes are 0). -/
def Obligations.PriorityScenarioOfTheSource : Prop :=
  ∀ (s : State) (l : SpriteLine), l = spriteLine s.mem 0 0 → s.reg .ly = 0 →
    s.readDirectly 0xFE00 = 16 → s.readDirectly 0xFE01 = 8 → s.readDirectly 0xFE03 = 0x80 →
    (∀ i, 0 < i → i < 40 → s.mem.read (0xFE00 + 4 * i) = 0) → (∀ c, c < 8 → l.Opaque s.cfg c) →
    (s.fb.row 0)[0] = white → (s.fb.row 0)[1] = black → (∀ c : Fin 160, 2 ≤ c.val → c.val ≤ 7 → (s.fb.row 0)[c] = white) →
    ∃ t, exec .renderObj s = .next t ∧
      (s.cfg.prioVariant = .scenario → (t.fb.row 0)[0] = white ∧
        ∀ c : Fin 160, 1 ≤ c.val → c.val ≤ 7 → (t.fb.row 0)[c] = pal (l.ci c) (s.reg .obp0)) ∧
      (s.cfg.prioVariant = .prose → (t.fb.row 0)[0] = pal (l.ci 0) (s.reg .obp0) ∧ (t.fb.row 0)[1] = black ∧
        ∀ c : Fin 160, 2 ≤ c.val → c.val ≤ 7 → (t.fb.row 0)[c] = pal (l.ci c) (s.reg .obp0))

/-- R74: what RENDER_OBJ draws depends on LCDC, LY, OBP0, OBP1, OAM, the bytes 0x8000 to 0x900F, the parameters and the
frame buffer alone. -/
def Obligations.RenderObjReadsOnlyItsBytes : Prop :=
  ∀ s s' t t' : State,
    (∀ r, r ∈ [Reg.lcdc, Reg.ly, Reg.obp0, Reg.obp1] → s.reg r = s'.reg r) →
    (∀ a, 0x8000 ≤ a → a ≤ 0x900F → s.mem.read a = s'.mem.read a) →
    (∀ a, 0xFE00 ≤ a → a ≤ 0xFE9F → s.mem.read a = s'.mem.read a) → s.cfg = s'.cfg → s.fb = s'.fb →
    exec .renderObj s = .next t → exec .renderObj s' = .next t' → t.fb = t'.fb

/-! ## RENDER_LINE -/

/-- R35, R145: RENDER_LINE runs the background and then the sprites, each if its LCDC bit is set, on row LY alone. -/
def Obligations.RenderLineRunsTheEnabledRenderers : Prop :=
  ∀ s : State, (s.reg .ly).toNat < 144 →
    ∃ t, exec .renderLine s = .next t ∧ t = { s with fb := t.fb, resp := ⟨false, 0, false, false, false⟩ } ∧
      (∀ r : Fin 144, r.val ≠ (s.reg .ly).toNat → t.fb.row r = s.fb.row r) ∧
      (testBit (s.reg .lcdc) 0 = true → testBit (s.reg .lcdc) 1 = true →
        runCommands [.renderBg, .renderObj] s = some t) ∧
      (testBit (s.reg .lcdc) 0 = true → testBit (s.reg .lcdc) 1 = false → exec .renderBg s = .next t) ∧
      (testBit (s.reg .lcdc) 0 = false → testBit (s.reg .lcdc) 1 = true → exec .renderObj s = .next t) ∧
      (testBit (s.reg .lcdc) 0 = false → testBit (s.reg .lcdc) 1 = false → t.fb = s.fb)

/-- R145, R160, R185, R262: a RENDER command with LY ≥ 144 is BadLine (the record: log entry 5). -/
def Obligations.RenderCommandsFaultPastTheLastRow : Prop :=
  ∀ (s : State) (i : Instr), i = .renderLine ∨ i = .renderBg ∨ i = .renderObj → 144 ≤ (s.reg .ly).toNat →
    exec i s = .next { s with resp := ⟨true, 0, false, false, false⟩, faults := .badLine :: s.faults }

/-! ## ADVANCE -/

/-- R74, R81, R260: ADVANCE completes from every state and on every count, without a fault and with data 0; it changes no
byte but LY and STAT, and keeps the port, the record and the parameters (fields of the model: log entries 1, 5 and 6). -/
def Obligations.AdvanceCompletesAndKeepsTheRest : Prop :=
  ∀ (s : State) (n : Nat), s.mem.wf = true →
    ∃ t, exec (.advance n) s = .next t ∧ t.resp.err = false ∧ t.resp.data = 0 ∧ t.port = s.port ∧
      t.faults = s.faults ∧ t.cfg = s.cfg ∧
      ∀ a : Addr, a ≠ regAddr .ly → a ≠ regAddr .stat → t.readDirectly a = s.readDirectly a

/-- R132: with the display disabled ADVANCE reloads the counter, keeps LY and the frame buffer, requests no V-Blank, reports
mode 0 and still compares LY with LYC, and requests LCD-STAT by the rules of every ADVANCE: on the change to mode 0 when STAT
bit 3 is set. -/
def Obligations.AdvanceWhileDisabled : Prop :=
  ∀ (s : State) (n : Nat), s.mem.wf = true → testBit (s.reg .lcdc) 7 = false →
    ∃ t, exec (.advance n) s = .next t ∧ t.counter = 456 ∧ t.reg .ly = s.reg .ly ∧ t.fb = s.fb ∧
      t.resp.irqVblank = false ∧ t.resp.frameDone = false ∧ statMode (t.reg .stat) = 0 ∧
      (statMatch (t.reg .stat) = true ↔ s.reg .ly = s.reg .lyc) ∧
      (t.resp.irqStat = true ↔ LcdStatCause s t) ∧
      (statMode (s.reg .stat) ≠ 0 → testBit (s.reg .stat) 3 = true → t.resp.irqStat = true)

/-- R133: while the counter remains above zero ADVANCE subtracts and stays in the line; the mode, the LYC match and the
LCD-STAT request are still computed. -/
def Obligations.AdvanceWithinALine : Prop :=
  ∀ (s : State) (n : Nat), s.mem.wf = true → testBit (s.reg .lcdc) 7 = true → 0 < s.counter - n →
    ∃ t, exec (.advance n) s = .next t ∧ t.counter = s.counter - n ∧ t.reg .ly = s.reg .ly ∧ t.fb = s.fb ∧
      t.resp.irqVblank = false ∧ t.resp.frameDone = false ∧ t.StatCurrent ∧ (t.resp.irqStat = true ↔ LcdStatCause s t)

/-- R134, R135, R136, R138: at or below zero the counter reloads whatever the overshoot, LY goes to the next line or wraps
from 153 and above to 0, V-Blank is requested at 144 and the frame ends at the wrap. -/
def Obligations.AdvanceToTheNextLine : Prop :=
  ∀ (s : State) (n : Nat), s.mem.wf = true → testBit (s.reg .lcdc) 7 = true → s.counter - n ≤ 0 →
    ∃ t, exec (.advance n) s = .next t ∧ t.counter = 456 ∧
      (t.reg .ly).toNat = (if 153 ≤ (s.reg .ly).toNat then 0 else (s.reg .ly).toNat + 1) ∧
      (t.resp.irqVblank = true ↔ (s.reg .ly).toNat = 143) ∧ (t.resp.frameDone = true ↔ 153 ≤ (s.reg .ly).toNat)

/-- R137, R145: on exhaustion with a previous LY of 0-142 the frame buffer is what RENDER_LINE makes of it with the new LY
written; with any other previous LY nothing is rendered. -/
def Obligations.AdvanceRendersTheNewLine : Prop :=
  ∀ (s t : State) (n : Nat), s.mem.wf = true → testBit (s.reg .lcdc) 7 = true → s.counter - n ≤ 0 →
    exec (.advance n) s = .next t →
    ((s.reg .ly).toNat ≤ 142 → ∃ u, exec .renderLine (s.writeReg .ly (s.reg .ly + 1)) = .next u ∧ t.fb = u.fb) ∧
    (143 ≤ (s.reg .ly).toNat → t.fb = s.fb)

/-- R137, R289: ADVANCE never renders row 0. -/
def Obligations.AdvanceNeverRendersRowZero : Prop :=
  ∀ (s t : State) (n : Nat), exec (.advance n) s = .next t → t.fb.row 0 = s.fb.row 0

/-- R139, R142, R144: every ADVANCE writes STAT back with bits 7-3 as they were, the match of the LY it leaves with LYC in
bit 2, and in bits 1-0 the mode its LY and counter give. -/
def Obligations.AdvanceWritesStatBack : Prop :=
  ∀ (s t : State) (n : Nat), s.mem.wf = true → exec (.advance n) s = .next t →
    (t.reg .stat).extractLsb' 3 5 = (s.reg .stat).extractLsb' 3 5 ∧
    (testBit (t.reg .stat) 2 = true ↔ t.reg .ly = s.reg .lyc) ∧
    statMode (t.reg .stat) =
      if testBit (s.reg .lcdc) 7 = false then 0
      else if 144 ≤ (t.reg .ly).toNat then 1
      else if 376 ≤ t.counter then 2
      else if 204 ≤ t.counter then 3
      else 0

/-- R140, R143: ADVANCE requests LCD-STAT exactly on a change to a mode whose enable bit is set, or on an LYC match with
STAT bit 6 set (in `Edge` mode only when the old match bit was 0). -/
def Obligations.AdvanceRequestsLcdStat : Prop :=
  ∀ (s t : State) (n : Nat), s.mem.wf = true → exec (.advance n) s = .next t →
    (t.resp.irqStat = true ↔ LcdStatCause s t)

/-- R48, R49: after every ADVANCE, STAT bits 2-0 show the machine's state and LYC match. -/
def Obligations.AdvanceBringsStatUpToDate : Prop :=
  ∀ (s t : State) (n : Nat), s.mem.wf = true → exec (.advance n) s = .next t → t.StatCurrent

/-- R141: a second ADVANCE in the same mode, with the match bit unchanged, requests no LCD-STAT in `Edge` mode. -/
def Obligations.RequestFiresOncePerMode : Prop :=
  ∀ (s t u : State) (n n' : Nat), s.mem.wf = true → s.cfg.lycIrqMode = .edge →
    exec (.advance n) s = .next t → exec (.advance n') t = .next u →
    statMode (u.reg .stat) = statMode (t.reg .stat) → statMatch (u.reg .stat) = statMatch (t.reg .stat) →
    u.resp.irqStat = false

/-- R146: ADVANCE 0 on a state whose STAT is up to date only refreshes it: in `Edge` mode nothing changes and nothing is
requested. -/
def Obligations.AdvanceZeroOnlyRefreshesStat : Prop :=
  ∀ s : State, s.Inv → s.StatCurrent → s.cfg.lycIrqMode = .edge →
    testBit (s.reg .lcdc) 7 = true ∨ s.counter = 456 →
    exec (.advance 0) s = .next { s with resp := ⟨false, 0, false, false, false⟩ }

/-- R148: counts that sum to exactly 456, however split, advance LY once: at the last of them. -/
def Obligations.OneLineHoweverSplit : Prop :=
  ∀ (s : State) (ns : List Nat) (last : Nat), s.mem.wf = true → testBit (s.reg .lcdc) 7 = true → s.counter = 456 →
    (s.reg .ly).toNat < 153 → ns.sum + last = 456 → 0 < last →
    ∃ t u, runCommands (ns.map .advance) s = some t ∧ t.reg .ly = s.reg .ly ∧ t.counter = 456 - ns.sum ∧
      exec (.advance last) t = .next u ∧ u.reg .ly = s.reg .ly + 1 ∧ u.counter = 456

/-- R148: a frame is 154 line periods: after k of them LY has gone k lines on, modulo 154. -/
def Obligations.FrameIs154LinePeriods : Prop :=
  ∀ (s : State) (k : Nat), s.mem.wf = true → testBit (s.reg .lcdc) 7 = true → s.counter = 456 →
    (s.reg .ly).toNat ≤ 153 →
    ∃ t, runCommands (List.replicate k (.advance 456)) s = some t ∧ t.counter = 456 ∧
      (t.reg .ly).toNat = ((s.reg .ly).toNat + k) % 154

/-- R148: V-Blank is requested exactly by the ADVANCE where LY becomes 144, and the frame ends exactly where LY becomes 0. -/
def Obligations.VBlankAndFrameEndFireOnEntry : Prop :=
  ∀ (s t : State) (n : Nat), s.mem.wf = true → exec (.advance n) s = .next t →
    (t.resp.irqVblank = true ↔ (t.reg .ly).toNat = 144 ∧ (s.reg .ly).toNat ≠ 144) ∧
    (t.resp.frameDone = true ↔ (t.reg .ly).toNat = 0 ∧ (s.reg .ly).toNat ≠ 0)
end

