-- ==== Sys2Proof/Laws/Decode.lean ====
section
/-! SUPPORT. Command words as numbers: a field is a quotient and a remainder, an encoding is a sum. -/

namespace Sys2Proof

theorem bits_eq (w : Word) (hi lo : Nat) : bits w hi lo = w.toNat / 2 ^ lo % 2 ^ (hi + 1 - lo) := by
  simp [bits, Nat.shiftRight_eq_div_pow]

theorem bits_lt (w : Word) (hi lo : Nat) : bits w hi lo < 2 ^ (hi + 1 - lo) := BitVec.isLt _

theorem toNat_append_eq {m n : Nat} (x : BitVec m) (y : BitVec n) :
    (x ++ y).toNat = x.toNat * 2 ^ n + y.toNat := by
  rw [BitVec.toNat_append, ← Nat.shiftLeft_add_eq_or_of_lt y.isLt, Nat.shiftLeft_eq]

/-- The command word as a number, field by field (R96). -/
def wordValue : Instr → Nat
  | .advance cycles => cycles
  | .renderLine => 0x10000000
  | .renderBg => 0x20000000
  | .renderObj => 0x30000000
  | .palLookup ci pal => 0x40000000 + 256 * ci + pal.toNat
  | .fbRead row col => 0x50000000 + 256 * row + col
  | .fbClear => 0x60000000
  | .busw addr data => 0x70000000 + 256 * addr.toNat + data.toNat
  | .busr addr => 0x80000000 + 256 * addr.toNat

/-- A well-formed command's word is that number. -/
theorem encode_toNat {i : Instr} (h : i.wf = true) : (encode i).toNat = wordValue i := by
  cases i <;> simp only [Instr.wf, Bool.and_eq_true, decide_eq_true_eq] at h <;> simp only [encode, wordValue]
  case advance cycles =>
    refine (toNat_append_eq (m := 4 + 12) (n := 16) _ _).trans ?_
    simp
    omega
  case palLookup ci pal =>
    refine (toNat_append_eq (m := 4 + 18 + 2) (n := 8) _ _).trans ?_
    rw [toNat_append_eq]
    simp
    omega
  case fbRead row col =>
    refine (toNat_append_eq (m := 4 + 12 + 8) (n := 8) _ _).trans ?_
    rw [toNat_append_eq]
    simp
    omega
  case busw addr data =>
    refine (toNat_append_eq (m := 4 + 4 + 16) (n := 8) _ _).trans ?_
    rw [toNat_append_eq]
    simp
    omega
  case busr addr =>
    refine (toNat_append_eq (m := 4 + 4 + 16) (n := 8) _ _).trans ?_
    rw [toNat_append_eq]
    simp
    omega
  all_goals rfl

end Sys2Proof
end

