-- ==== Sys2Proof/Laws/Memory.lean ====
section
/-! SUPPORT. The laws of memory: a read after a write, and that a write keeps the canonical form. -/

namespace Sys2Proof.Machine

theorem Memory.wfFrom_mono {lo lo' : Nat} {m : Memory} (h : lo' ≤ lo) (hm : Memory.wfFrom lo m = true) :
    Memory.wfFrom lo' m = true := by
  cases m with
  | nil => rfl
  | cons c m =>
    simp only [Memory.wfFrom, Bool.and_eq_true, decide_eq_true_eq] at hm ⊢
    exact ⟨⟨⟨by omega, hm.1.1.2⟩, hm.1.2⟩, hm.2⟩

/-- Below the cells a canonical memory lists, an address reads as unlisted. -/
theorem Memory.read_below {lo : Nat} {m : Memory} (hm : Memory.wfFrom lo m = true) {a : Nat} (ha : a < lo) :
    Memory.read m a = unlistedByte := by
  induction m generalizing lo with
  | nil => rfl
  | cons c m ih =>
    simp only [Memory.wfFrom, Bool.and_eq_true, decide_eq_true_eq] at hm
    rw [Memory.read, if_neg (by omega)]
    exact ih hm.2 (by omega)

theorem Memory.read_cons_same {lo : Nat} {m : Memory} (hm : Memory.wfFrom lo m = true) {a : Nat} (ha : a < lo) (v : Byte) :
    Memory.read (Memory.cons a v m) a = v := by
  unfold Memory.cons
  split
  · next h => rw [Memory.read_below hm ha, h]
  · simp [Memory.read]

theorem Memory.read_cons_other {m : Memory} {a b : Nat} (h : b ≠ a) (v : Byte) :
    Memory.read (Memory.cons a v m) b = Memory.read m b := by
  unfold Memory.cons
  split
  · rfl
  · simp [Memory.read, h]

theorem Memory.wfFrom_cons {lo a : Nat} {m : Memory} (hm : Memory.wfFrom (a + 1) m = true) (hlo : lo ≤ a)
    (ha : a < 65536) (v : Byte) : Memory.wfFrom lo (Memory.cons a v m) = true := by
  unfold Memory.cons
  split
  · exact Memory.wfFrom_mono (by omega) hm
  · next h => simp [Memory.wfFrom, hlo, ha, h, hm]

/-- A read of the address just written gives the byte written (R72). -/
theorem Memory.read_write_same {lo : Nat} {m : Memory} (hm : Memory.wfFrom lo m = true) (a : Nat) (v : Byte) :
    Memory.read (Memory.write m a v) a = v := by
  induction m generalizing lo with
  | nil => exact Memory.read_cons_same (lo := a + 1) rfl (by omega) v
  | cons c m ih =>
    obtain ⟨k, b⟩ := c
    simp only [Memory.wfFrom, Bool.and_eq_true, decide_eq_true_eq] at hm
    rw [Memory.write]
    split
    · next h =>
      refine Memory.read_cons_same (lo := a + 1) ?_ (by omega) v
      simp only [Memory.wfFrom, Bool.and_eq_true, decide_eq_true_eq]
      exact ⟨⟨⟨by omega, hm.1.1.2⟩, hm.1.2⟩, hm.2⟩
    · split
      · next h => exact Memory.read_cons_same (lo := k + 1) hm.2 (by omega) v
      · next h => rw [Memory.read, if_neg h]; exact ih hm.2

/-- A write leaves every other address alone (R72). -/
theorem Memory.read_write_other {lo : Nat} {m : Memory} (hm : Memory.wfFrom lo m = true) {a b : Nat} (h : b ≠ a)
    (v : Byte) : Memory.read (Memory.write m a v) b = Memory.read m b := by
  induction m generalizing lo with
  | nil => rw [Memory.write, Memory.read_cons_other h]
  | cons c m ih =>
    obtain ⟨k, x⟩ := c
    simp only [Memory.wfFrom, Bool.and_eq_true, decide_eq_true_eq] at hm
    rw [Memory.write]
    split
    · exact Memory.read_cons_other h v
    · split
      · next hk => subst hk; rw [Memory.read_cons_other h, Memory.read, if_neg h]
      · rw [Memory.read, Memory.read, ih hm.2]

/-- A write keeps the canonical form, above any address the cells and the address written lie above. -/
theorem Memory.wfFrom_write {lo : Nat} {m : Memory} (hm : Memory.wfFrom lo m = true) {a : Nat} (hlo : lo ≤ a)
    (ha : a < 65536) (v : Byte) : Memory.wfFrom lo (Memory.write m a v) = true := by
  induction m generalizing lo with
  | nil => exact Memory.wfFrom_cons rfl hlo ha v
  | cons c m ih =>
    obtain ⟨k, b⟩ := c
    simp only [Memory.wfFrom, Bool.and_eq_true, decide_eq_true_eq] at hm
    rw [Memory.write]
    split
    · refine Memory.wfFrom_cons ?_ hlo ha v
      simp only [Memory.wfFrom, Bool.and_eq_true, decide_eq_true_eq]
      exact ⟨⟨⟨by omega, hm.1.1.2⟩, hm.1.2⟩, hm.2⟩
    · split
      · next h => subst h; exact Memory.wfFrom_cons hm.2 hlo ha v
      · simp only [Memory.wfFrom, Bool.and_eq_true, decide_eq_true_eq]
        exact ⟨hm.1, ih hm.2 (by omega)⟩

/-- The one operation that changes memory keeps its canonical form. -/
theorem Memory.wf_write {m : Memory} (hm : m.wf = true) {a : Nat} (ha : a < 65536) (v : Byte) :
    (m.write a v).wf = true := Memory.wfFrom_write hm (Nat.zero_le a) ha v

/-- Writing the byte already held changes nothing. -/
theorem Memory.write_read_self {lo : Nat} {m : Memory} (hm : Memory.wfFrom lo m = true) (a : Nat) :
    Memory.write m a (Memory.read m a) = m := by
  induction m generalizing lo with
  | nil => simp [Memory.write, Memory.read, Memory.cons]
  | cons c m ih =>
    obtain ⟨k, b⟩ := c
    have hc := hm
    simp only [Memory.wfFrom, Bool.and_eq_true, decide_eq_true_eq] at hm
    rw [Memory.write]
    split
    · next h =>
      have hk : Memory.wfFrom k ((k, b) :: m) = true := by
        simp only [Memory.wfFrom, Bool.and_eq_true, decide_eq_true_eq]
        exact ⟨⟨⟨le_refl _, hm.1.1.2⟩, hm.1.2⟩, hm.2⟩
      rw [Memory.read_below hk h]
      simp [Memory.cons]
    · split
      · next h => subst h; simp [Memory.read, Memory.cons, hm.1.2]
      · next h => rw [Memory.read, if_neg h, ih hm.2]

end Sys2Proof.Machine
end

