-- ==== Sys2Proof/Laws/Operands.lean ====
section
/-! SUPPORT. The operand computations in closed form: colour indices, shades, packed colours, the source of a background
pixel, and a sprite's extent, row and columns on a line. -/

namespace Sys2Proof.Machine

theorem trunc8_lt (v : Int) : trunc8 v < 256 := by unfold trunc8; omega

theorem TileRow.colourIndex_eq (t : TileRow) (b : Nat) :
    t.colourIndex b = 2 * (testBit t.hi b).toNat + (testBit t.lo b).toNat := by
  unfold TileRow.colourIndex
  cases testBit t.hi b <;> cases testBit t.lo b <;> rfl

theorem SpriteLine.ci_le (l : SpriteLine) (c : Nat) : l.ci c ≤ 3 := by
  unfold SpriteLine.ci
  rw [TileRow.colourIndex_eq]
  cases testBit l.tileRow.hi _ <;> cases testBit l.tileRow.lo _ <;> decide

theorem shade_toNat {ci : Nat} (h : ci ≤ 3) (p : Byte) : (shade ci p).toNat = p.toNat / 4 ^ ci % 4 := by
  revert p; interval_cases ci <;> decide

theorem packRgb_r (c : Rgb) : (packRgb c).extractLsb' 16 8 = c.r := by
  apply BitVec.eq_of_getLsbD_eq
  intro i hi
  simp only [packRgb, BitVec.getLsbD_extractLsb', BitVec.getLsbD_append]
  rw [if_neg (by omega), if_neg (by omega)]
  simp [show 16 + i - 8 - 8 = i by omega, hi]

theorem packRgb_g (c : Rgb) : (packRgb c).extractLsb' 8 8 = c.g := by
  apply BitVec.eq_of_getLsbD_eq
  intro i hi
  simp only [packRgb, BitVec.getLsbD_extractLsb', BitVec.getLsbD_append]
  simp [hi]

theorem packRgb_b (c : Rgb) : (packRgb c).extractLsb' 0 8 = c.b := by
  apply BitVec.eq_of_getLsbD_eq
  intro i hi
  simp only [packRgb, BitVec.getLsbD_extractLsb', BitVec.getLsbD_append]
  simp [hi]

/-- The window test without negative numbers. -/
theorem BgRegs.win_iff (r : BgRegs) (ly sx : Nat) :
    r.win ly sx = true ↔ testBit r.lcdc 5 = true ∧ r.wy ≤ ly ∧ r.wx ≤ sx + 7 := by
  simp only [BgRegs.win, BgRegs.winRow, Bool.and_eq_true, decide_eq_true_eq, and_assoc]
  refine and_congr_right fun _ => and_congr_right fun _ => ?_
  omega

theorem BgRegs.source_lt (r : BgRegs) (ly sx : Nat) : (r.source ly sx).py < 256 ∧ (r.source ly sx).px < 256 := by
  unfold BgRegs.source
  split <;> dsimp only <;> exact ⟨trunc8_lt _, trunc8_lt _⟩

theorem spriteHeight_cases (lcdc : Byte) : spriteHeight lcdc = 8 ∨ spriteHeight lcdc = 16 := by
  unfold spriteHeight
  split <;> simp

/-- A sprite's extent without negative numbers. -/
theorem oamEntry_covers_iff (m : Memory) (i h ly : Nat) :
    (oamEntry m i).covers h ly = true ↔
      (m.read (oamBase + 4 * i)).toNat ≤ ly + 16 ∧ ly + 16 < (m.read (oamBase + 4 * i)).toNat + h := by
  simp only [OamEntry.covers, Bool.and_eq_true, decide_eq_true_eq]
  simp only [oamEntry]
  omega

theorem oamEntry_rowOn (m : Memory) (i h ly : Nat) :
    (oamEntry m i).rowOn h ly =
      if testBit (m.read (oamBase + 4 * i + 3)) 6 then h - 1 - (ly + 16 - (m.read (oamBase + 4 * i)).toNat)
      else ly + 16 - (m.read (oamBase + 4 * i)).toNat := by
  simp only [OamEntry.rowOn, OamEntry.yflip, oamEntry]
  rw [show ((ly : Int) - ((m.read (oamBase + 4 * i)).toNat - 16)).toNat = ly + 16 - (m.read (oamBase + 4 * i)).toNat
    by omega]
  rfl

theorem SpriteLine.column_iff (l : SpriteLine) (c : Nat) (sx : Fin 160) :
    l.column c = some sx ↔ (sx : Int) = l.entry.left + c := by
  have := sx.isLt
  unfold SpriteLine.column
  dsimp only
  split
  · simp
    omega
  · simp [Fin.ext_iff]
    omega

/-- The pixel a column writes, and the other pixels, under the priority quirk. -/
theorem SpriteRow.place_row_same (v : PrioVariant) (st : SpriteRow) (sx : Fin 160) (colour : Rgb) :
    (st.place v sx colour).row[sx] =
      if st.hideArmed = true ∧ (v = .scenario ↔ st.row[sx] = white) then st.row[sx] else colour := by
  unfold SpriteRow.place SpriteRow.draw SpriteRow.disarm
  dsimp only
  cases ha : st.hideArmed
  · simp
  · by_cases hw : st.row[(sx : Nat)] = white <;> cases v <;> simp [hw]

theorem SpriteRow.place_row_other (v : PrioVariant) (st : SpriteRow) {sx sx' : Fin 160} (h : sx' ≠ sx) (colour : Rgb) :
    (st.place v sx colour).row[sx'] = st.row[sx'] := by
  have : (sx : Nat) ≠ sx' := fun e => h (Fin.ext e.symm)
  unfold SpriteRow.place SpriteRow.draw SpriteRow.disarm
  dsimp only
  split
  · cases v <;> dsimp only <;> split <;> simp [this]
  · simp [this]

/-- The hiding stays armed over WHITE only. -/
theorem SpriteRow.place_hideArmed (v : PrioVariant) (st : SpriteRow) (sx : Fin 160) (colour : Rgb) :
    (st.place v sx colour).hideArmed = true ↔ st.hideArmed = true ∧ st.row[sx] = white := by
  unfold SpriteRow.place SpriteRow.draw SpriteRow.disarm
  dsimp only
  cases ha : st.hideArmed
  · simp
  · by_cases hw : st.row[(sx : Nat)] = white <;> cases v <;> simp [hw, ha]

end Sys2Proof.Machine
end

