-- ==== Sys2Proof/Laws/State.lean ====
section
/-! SUPPORT. What each update of the state does to each field. -/

namespace Sys2Proof.Machine

variable (s : State)

@[simp] theorem State.writeDirectly_mem (a : Addr) (v : Byte) : (s.writeDirectly a v).mem = s.mem.write a.toNat v := rfl
@[simp] theorem State.writeDirectly_counter (a : Addr) (v : Byte) : (s.writeDirectly a v).counter = s.counter := rfl
@[simp] theorem State.writeDirectly_fb (a : Addr) (v : Byte) : (s.writeDirectly a v).fb = s.fb := rfl
@[simp] theorem State.writeDirectly_port (a : Addr) (v : Byte) : (s.writeDirectly a v).port = s.port := rfl
@[simp] theorem State.writeDirectly_resp (a : Addr) (v : Byte) : (s.writeDirectly a v).resp = s.resp := rfl
@[simp] theorem State.writeDirectly_faults (a : Addr) (v : Byte) : (s.writeDirectly a v).faults = s.faults := rfl
@[simp] theorem State.writeDirectly_cfg (a : Addr) (v : Byte) : (s.writeDirectly a v).cfg = s.cfg := rfl

@[simp] theorem State.setCounter_mem (v : Int) : (s.setCounter v).mem = s.mem := rfl
@[simp] theorem State.setCounter_counter (v : Int) : (s.setCounter v).counter = v := rfl
@[simp] theorem State.setCounter_fb (v : Int) : (s.setCounter v).fb = s.fb := rfl
@[simp] theorem State.setCounter_port (v : Int) : (s.setCounter v).port = s.port := rfl
@[simp] theorem State.setCounter_resp (v : Int) : (s.setCounter v).resp = s.resp := rfl
@[simp] theorem State.setCounter_faults (v : Int) : (s.setCounter v).faults = s.faults := rfl
@[simp] theorem State.setCounter_cfg (v : Int) : (s.setCounter v).cfg = s.cfg := rfl

@[simp] theorem State.setFb_mem (fb : Frame) : (s.setFb fb).mem = s.mem := rfl
@[simp] theorem State.setFb_counter (fb : Frame) : (s.setFb fb).counter = s.counter := rfl
@[simp] theorem State.setFb_fb (fb : Frame) : (s.setFb fb).fb = fb := rfl
@[simp] theorem State.setFb_port (fb : Frame) : (s.setFb fb).port = s.port := rfl
@[simp] theorem State.setFb_resp (fb : Frame) : (s.setFb fb).resp = s.resp := rfl
@[simp] theorem State.setFb_faults (fb : Frame) : (s.setFb fb).faults = s.faults := rfl
@[simp] theorem State.setFb_cfg (fb : Frame) : (s.setFb fb).cfg = s.cfg := rfl

@[simp] theorem State.respond_mem (r : Response) : (s.respond r).mem = s.mem := rfl
@[simp] theorem State.respond_counter (r : Response) : (s.respond r).counter = s.counter := rfl
@[simp] theorem State.respond_fb (r : Response) : (s.respond r).fb = s.fb := rfl
@[simp] theorem State.respond_port (r : Response) : (s.respond r).port = s.port := rfl
@[simp] theorem State.respond_resp (r : Response) : (s.respond r).resp = r := rfl
@[simp] theorem State.respond_faults (r : Response) : (s.respond r).faults = s.faults := rfl
@[simp] theorem State.respond_cfg (r : Response) : (s.respond r).cfg = s.cfg := rfl

@[simp] theorem State.respondData_mem (d : BitVec 24) : (s.respondData d).mem = s.mem := rfl
@[simp] theorem State.respondData_counter (d : BitVec 24) : (s.respondData d).counter = s.counter := rfl
@[simp] theorem State.respondData_fb (d : BitVec 24) : (s.respondData d).fb = s.fb := rfl
@[simp] theorem State.respondData_port (d : BitVec 24) : (s.respondData d).port = s.port := rfl
@[simp] theorem State.respondData_resp (d : BitVec 24) : (s.respondData d).resp = { Response.ok with data := d } := rfl
@[simp] theorem State.respondData_faults (d : BitVec 24) : (s.respondData d).faults = s.faults := rfl
@[simp] theorem State.respondData_cfg (d : BitVec 24) : (s.respondData d).cfg = s.cfg := rfl

@[simp] theorem State.takeWord_mem : (s.takeWord).mem = s.mem := rfl
@[simp] theorem State.takeWord_counter : (s.takeWord).counter = s.counter := rfl
@[simp] theorem State.takeWord_fb : (s.takeWord).fb = s.fb := rfl
@[simp] theorem State.takeWord_port : (s.takeWord).port = s.port.tail := rfl
@[simp] theorem State.takeWord_resp : (s.takeWord).resp = s.resp := rfl
@[simp] theorem State.takeWord_faults : (s.takeWord).faults = s.faults := rfl
@[simp] theorem State.takeWord_cfg : (s.takeWord).cfg = s.cfg := rfl

@[simp] theorem State.recordFault_mem (f : Fault) : (s.recordFault f).mem = s.mem := rfl
@[simp] theorem State.recordFault_counter (f : Fault) : (s.recordFault f).counter = s.counter := rfl
@[simp] theorem State.recordFault_fb (f : Fault) : (s.recordFault f).fb = s.fb := rfl
@[simp] theorem State.recordFault_port (f : Fault) : (s.recordFault f).port = s.port := rfl
@[simp] theorem State.recordFault_resp (f : Fault) : (s.recordFault f).resp = Response.error := rfl
@[simp] theorem State.recordFault_faults (f : Fault) : (s.recordFault f).faults = f :: s.faults := rfl
@[simp] theorem State.recordFault_cfg (f : Fault) : (s.recordFault f).cfg = s.cfg := rfl

@[simp] theorem State.writeReg_counter (r : Reg) (v : Byte) : (s.writeReg r v).counter = s.counter := rfl
@[simp] theorem State.writeReg_fb (r : Reg) (v : Byte) : (s.writeReg r v).fb = s.fb := rfl
@[simp] theorem State.writeReg_port (r : Reg) (v : Byte) : (s.writeReg r v).port = s.port := rfl
@[simp] theorem State.writeReg_resp (r : Reg) (v : Byte) : (s.writeReg r v).resp = s.resp := rfl
@[simp] theorem State.writeReg_faults (r : Reg) (v : Byte) : (s.writeReg r v).faults = s.faults := rfl
@[simp] theorem State.writeReg_cfg (r : Reg) (v : Byte) : (s.writeReg r v).cfg = s.cfg := rfl
@[simp] theorem State.writeReg_mem (r : Reg) (v : Byte) : (s.writeReg r v).mem = s.mem.write (regAddr r).toNat v := rfl

@[simp] theorem State.withFetchWord_mem (nbits w : Nat) : (s.withFetchWord nbits w).mem = s.mem := rfl
@[simp] theorem State.withFetchWord_counter (nbits w : Nat) : (s.withFetchWord nbits w).counter = s.counter := rfl
@[simp] theorem State.withFetchWord_fb (nbits w : Nat) : (s.withFetchWord nbits w).fb = s.fb := rfl
@[simp] theorem State.withFetchWord_port (nbits w : Nat) : (s.withFetchWord nbits w).port = tableWord nbits w :: s.port := rfl
@[simp] theorem State.withFetchWord_resp (nbits w : Nat) : (s.withFetchWord nbits w).resp = s.resp := rfl
@[simp] theorem State.withFetchWord_faults (nbits w : Nat) : (s.withFetchWord nbits w).faults = s.faults := rfl
@[simp] theorem State.withFetchWord_cfg (nbits w : Nat) : (s.withFetchWord nbits w).cfg = s.cfg := rfl

end Sys2Proof.Machine
end

