-- ==== Sys2Proof/Laws/Ops.lean ====
section
/-! SUPPORT. What the shared operations do: the registers, the direct port, `raise Fault(reason)`, a renderer run on the
current line, and the renderers' frames. -/

namespace Sys2Proof.Machine

variable {s : State}

theorem regAddr_injective {r r' : Reg} (h : (regAddr r).toNat = (regAddr r').toNat) : r = r' := by
  cases r <;> cases r' <;> simp [regAddr] at h ⊢

theorem readDirectly_writeDirectly_same (hm : s.mem.wf = true) (a : Addr) (v : Byte) :
    (s.writeDirectly a v).readDirectly a = v := Memory.read_write_same hm a.toNat v

theorem readDirectly_writeDirectly_other (hm : s.mem.wf = true) {a b : Addr} (h : b ≠ a) (v : Byte) :
    (s.writeDirectly a v).readDirectly b = s.readDirectly b :=
  Memory.read_write_other hm (fun e => h (BitVec.eq_of_toNat_eq e)) v

theorem reg_writeReg_same (hm : s.mem.wf = true) (r : Reg) (v : Byte) : (s.writeReg r v).reg r = v :=
  Memory.read_write_same hm _ v

theorem reg_writeReg_other (hm : s.mem.wf = true) {r r' : Reg} (h : r' ≠ r) (v : Byte) :
    (s.writeReg r v).reg r' = s.reg r' :=
  Memory.read_write_other hm (fun e => h (regAddr_injective e)) v

theorem writeDirectly_wf (hm : s.mem.wf = true) (a : Addr) (v : Byte) : (s.writeDirectly a v).mem.wf = true :=
  Memory.wf_write hm a.isLt v

theorem writeReg_wf (hm : s.mem.wf = true) (r : Reg) (v : Byte) : (s.writeReg r v).mem.wf = true :=
  writeDirectly_wf hm _ v

/-- A register's value depends on memory alone. -/
theorem reg_congr {t : State} (h : t.mem = s.mem) (r : Reg) : t.reg r = s.reg r := by simp [State.reg, h]

theorem raiseFault_eq (f : Fault) (s : State) : raiseFault f s = .next (s.recordFault f) := rfl

/-- All a renderer's command can do: render row LY and answer ok, or record BadLine. -/
theorem renderCurrentLine_cases {render : Fin 144 → State → State} {t : State}
    (h : renderCurrentLine render s = .next t) :
    (∃ hl : (s.reg .ly).toNat < 144, t = (render ⟨(s.reg .ly).toNat, hl⟩ s).respond Response.ok) ∨
      (144 ≤ (s.reg .ly).toNat ∧ t = s.recordFault .badLine) := by
  unfold renderCurrentLine at h
  split at h
  · next hl => exact .inl ⟨hl, by simpa using h.symm⟩
  · next hl => exact .inr ⟨by omega, by simpa [raiseFault] using h.symm⟩

/-- A renderer's command on a visible row. -/
theorem renderCurrentLine_of_row {ly : Fin 144} (h : (s.reg .ly).toNat = ly) (render : Fin 144 → State → State) :
    renderCurrentLine render s = .next ((render ly s).respond Response.ok) := by
  unfold renderCurrentLine
  rw [dif_pos (by omega)]
  simp [h]

theorem Frame.row_setRow_same (fb : Frame) (ly : Fin 144) (row : Row) : (fb.setRow ly row).row ly = row := by
  simp [Frame.row, Frame.setRow]

theorem Frame.row_setRow_other (fb : Frame) {ly r : Fin 144} (h : r ≠ ly) (row : Row) :
    (fb.setRow ly row).row r = fb.row r := by
  have : (ly : Nat) ≠ r := fun e => h (Fin.ext e.symm)
  simp [Frame.row, Frame.setRow, this]

end Sys2Proof.Machine
end

