-- ==== Sys2Proof/Laws/PerInstr.lean ====
section
/-! SUPPORT. One lemma for each command, for the statements about all of them: its word carries the fixed bits its row of
spec/opcode_table.json gives (R96). -/

namespace Sys2Proof.Laws.FixedBits

/-- The encoding of a command matches its row of the opcode table, and the row stands in the table. -/
def Statement (i : Instr) : Prop := i.row.matches (encode i) = true ∧ i.row ∈ opcodeTable

/-- The masked word, bit by bit. -/
theorem masked {r : OpcodeRow} {w : Word} (h : w &&& r.mask = r.value) : r.matches w = true := by
  simp [OpcodeRow.matches, h]

theorem advance (cycles : Nat) : Statement (.advance cycles) := by
  refine ⟨masked ?_, by simp [Instr.row, opcodeTable]⟩
  apply BitVec.eq_of_getLsbD_eq
  intro i hi
  simp only [encode, Instr.row, BitVec.getLsbD_and, BitVec.getLsbD_append]
  interval_cases i <;> simp

theorem renderLine : Statement .renderLine := by unfold Statement; decide
theorem renderBg : Statement .renderBg := by unfold Statement; decide
theorem renderObj : Statement .renderObj := by unfold Statement; decide

theorem palLookup (ci : Nat) (pal : Byte) : Statement (.palLookup ci pal) := by
  refine ⟨masked ?_, by simp [Instr.row, opcodeTable]⟩
  apply BitVec.eq_of_getLsbD_eq
  intro i hi
  simp only [encode, Instr.row, BitVec.getLsbD_and, BitVec.getLsbD_append]
  interval_cases i <;> simp

theorem fbRead (row col : Nat) : Statement (.fbRead row col) := by
  refine ⟨masked ?_, by simp [Instr.row, opcodeTable]⟩
  apply BitVec.eq_of_getLsbD_eq
  intro i hi
  simp only [encode, Instr.row, BitVec.getLsbD_and, BitVec.getLsbD_append]
  interval_cases i <;> simp

theorem fbClear : Statement .fbClear := by unfold Statement; decide

theorem busw (addr : Addr) (data : Byte) : Statement (.busw addr data) := by
  refine ⟨masked ?_, by simp [Instr.row, opcodeTable]⟩
  apply BitVec.eq_of_getLsbD_eq
  intro i hi
  simp only [encode, Instr.row, BitVec.getLsbD_and, BitVec.getLsbD_append]
  interval_cases i <;> simp

theorem busr (addr : Addr) : Statement (.busr addr) := by
  refine ⟨masked ?_, by simp [Instr.row, opcodeTable]⟩
  apply BitVec.eq_of_getLsbD_eq
  intro i hi
  simp only [encode, Instr.row, BitVec.getLsbD_and, BitVec.getLsbD_append]
  interval_cases i <;> simp

end Sys2Proof.Laws.FixedBits
end

