-- ==== Sys2Proof/Laws/Safety.lean ====
section
/-! SUPPORT. The shared responses are legal, and the memory of reset has the canonical form. -/

namespace Sys2Proof.Machine

theorem Response.ok_legal : Response.ok.Legal := ⟨by decide, by decide, by decide⟩

theorem Response.error_legal : Response.error.Legal := ⟨by decide, by decide, by decide⟩

theorem Response.data_legal (d : BitVec 24) : ({ Response.ok with data := d } : Response).Legal :=
  ⟨by simp [Response.ok], by simp [Response.ok], by simp [Response.ok]⟩

theorem State.reset_mem_wf : State.reset.mem.wf = true := rfl

end Sys2Proof.Machine
end

