-- ==== Sys2Proof/Laws/Sequencer.lean ====
section
/-! SUPPORT. What the renderers and the steps of ADVANCE do to each field of the state. -/

namespace Sys2Proof.Machine

variable {s : State}

/-- A state that differs from another in its frame buffer alone. -/
def SameButFb (s t : State) : Prop := t = s.setFb t.fb

theorem SameButFb.refl (s : State) : SameButFb s s := rfl

theorem SameButFb.setFb (s : State) (fb : Frame) : SameButFb s (s.setFb fb) := rfl

theorem SameButFb.trans {s t u : State} (h : SameButFb s t) (h' : SameButFb t u) : SameButFb s u := by
  unfold SameButFb at *
  rw [h', h]
  rfl

theorem SameButFb.mem_eq {t : State} (h : SameButFb s t) : t.mem = s.mem := by rw [h]; rfl
theorem SameButFb.counter_eq {t : State} (h : SameButFb s t) : t.counter = s.counter := by rw [h]; rfl
theorem SameButFb.port_eq {t : State} (h : SameButFb s t) : t.port = s.port := by rw [h]; rfl
theorem SameButFb.resp_eq {t : State} (h : SameButFb s t) : t.resp = s.resp := by rw [h]; rfl
theorem SameButFb.faults_eq {t : State} (h : SameButFb s t) : t.faults = s.faults := by rw [h]; rfl
theorem SameButFb.cfg_eq {t : State} (h : SameButFb s t) : t.cfg = s.cfg := by rw [h]; rfl

/-- The renderers write the frame buffer and nothing else (R74). -/
theorem renderBg_sameButFb (ly : Fin 144) (s : State) : SameButFb s (renderBg ly s) := SameButFb.setFb s _

theorem renderObj_sameButFb (ly : Fin 144) (s : State) : SameButFb s (renderObj ly s) := SameButFb.setFb s _

theorem renderLineBody_sameButFb (ly : Fin 144) (s : State) : SameButFb s (renderLineBody ly s) := by
  unfold renderLineBody
  dsimp only
  split <;> split <;> exact SameButFb.refl _

/-- A renderer of row `ly` leaves every other row alone (R221). -/
theorem renderBg_row_other {ly r : Fin 144} (h : r ≠ ly) (s : State) : (renderBg ly s).fb.row r = s.fb.row r :=
  Frame.row_setRow_other s.fb h _

theorem renderObj_row_other {ly r : Fin 144} (h : r ≠ ly) (s : State) : (renderObj ly s).fb.row r = s.fb.row r :=
  Frame.row_setRow_other s.fb h _

theorem renderLineBody_row_other {ly r : Fin 144} (h : r ≠ ly) (s : State) :
    (renderLineBody ly s).fb.row r = s.fb.row r := by
  unfold renderLineBody
  dsimp only
  split <;> split <;> simp [renderBg_row_other h, renderObj_row_other h]

/-- Step 3 on a state: its memory is the one with LY written, its counter and the fields outside are untouched. -/
theorem nextLine_fields (s : State) :
    (nextLine s).state.mem =
        (s.writeReg .ly (if lastLine < (s.reg .ly).toNat + 1 then 0 else BitVec.ofNat 8 ((s.reg .ly).toNat + 1))).mem ∧
      (nextLine s).state.counter = s.counter ∧ (nextLine s).state.port = s.port ∧
      (nextLine s).state.faults = s.faults ∧ (nextLine s).state.cfg = s.cfg := by
  unfold nextLine
  dsimp only
  split
  · have h := renderLineBody_sameButFb ⟨(s.reg .ly).toNat + 1, by omega⟩
      (s.writeReg .ly (if decide (lastLine < (s.reg .ly).toNat + 1) = true then 0
        else BitVec.ofNat 8 ((s.reg .ly).toNat + 1)))
    refine ⟨?_, ?_, ?_, ?_, ?_⟩
    · rw [h.mem_eq]; simp
    · rw [h.counter_eq]; rfl
    · rw [h.port_eq]; rfl
    · rw [h.faults_eq]; rfl
    · rw [h.cfg_eq]; rfl
  · simp

/-- All that steps 1 to 3 can do: hold, count down, or go to the next line. -/
theorem countdown_cases (cycles : Nat) (s : State) :
    (s.displayEnabled = false ∧ countdown cycles s = ⟨s.setCounter lineBudget, false, false⟩) ∨
      (s.displayEnabled = true ∧ 0 < s.counter - cycles ∧
        countdown cycles s = ⟨s.setCounter (s.counter - cycles), false, false⟩) ∨
      (s.displayEnabled = true ∧ s.counter - cycles ≤ 0 ∧
        countdown cycles s = nextLine (s.setCounter lineBudget)) := by
  unfold countdown
  cases hd : s.displayEnabled
  · simp
  · dsimp only [if_true]
    by_cases hc : s.counter - cycles ≤ 0
    · right; right; simp [hc]
    · right; left; simp [hc]; omega

/-- What RENDER_LINE draws depends on memory, the frame buffer and the parameters alone. -/
theorem renderLineBody_fb_congr (ly : Fin 144) {t : State} (h1 : s.mem = t.mem) (h2 : s.fb = t.fb) (h3 : s.cfg = t.cfg) :
    (renderLineBody ly s).fb = (renderLineBody ly t).fb := by
  unfold renderLineBody renderObj renderBg
  simp only [State.reg, h1]
  by_cases k0 : testBit (t.mem.reg .lcdc) 0 = true <;> by_cases k1 : testBit (t.mem.reg .lcdc) 1 = true <;>
    simp [h1, h2, h3, k0, k1]

/-- Steps 1 to 3 touch neither the port, nor the record of faults, nor the parameters. -/
theorem countdown_port_faults_cfg (n : Nat) (s : State) :
    (countdown n s).state.port = s.port ∧ (countdown n s).state.faults = s.faults ∧
      (countdown n s).state.cfg = s.cfg := by
  rcases countdown_cases n s with ⟨_, h⟩ | ⟨_, _, h⟩ | ⟨_, _, h⟩ <;> rw [h]
  · simp
  · simp
  · simp [nextLine_fields (s.setCounter lineBudget)]

/-- Steps 1 to 3 keep the canonical form and write no byte but LY. -/
theorem countdown_mem (hm : s.mem.wf = true) (n : Nat) :
    (countdown n s).state.mem.wf = true ∧
      ∀ a : Addr, a ≠ regAddr .ly → (countdown n s).state.readDirectly a = s.readDirectly a := by
  rcases countdown_cases n s with ⟨_, hc⟩ | ⟨_, h0, hc⟩ | ⟨_, _, hc⟩ <;> rw [hc]
  · exact ⟨hm, fun _ _ => rfl⟩
  · exact ⟨hm, fun _ _ => rfl⟩
  · have hf := (nextLine_fields (s.setCounter lineBudget)).1
    refine ⟨by rw [hf]; exact writeReg_wf (by exact hm) _ _, fun a ha => ?_⟩
    unfold State.readDirectly
    rw [hf]
    exact readDirectly_writeDirectly_other (s := s.setCounter lineBudget) hm ha _

theorem countdown_reg (hm : s.mem.wf = true) (n : Nat) {r : Reg} (h : r ≠ .ly) :
    (countdown n s).state.reg r = s.reg r :=
  (countdown_mem hm n).2 (regAddr r) (by cases r <;> simp [regAddr] at h ⊢)

/-- ADVANCE keeps the canonical form of memory. -/
theorem advance_wf (hm : s.mem.wf = true) (n : Nat) : (advance n s).mem.wf = true :=
  writeReg_wf (countdown_mem hm n).1 _ _

/-- A register other than LY and STAT is the same after ADVANCE. -/
theorem advance_reg (hm : s.mem.wf = true) (n : Nat) {r : Reg} (h : r ≠ .ly) (h' : r ≠ .stat) :
    (advance n s).reg r = s.reg r :=
  (reg_writeReg_other (countdown_mem hm n).1 h' _).trans (countdown_reg hm n h)

/-- The LY that ADVANCE leaves is the one steps 1 to 3 leave. -/
theorem advance_ly (hm : s.mem.wf = true) (n : Nat) : (advance n s).reg .ly = (countdown n s).state.reg .ly :=
  reg_writeReg_other (countdown_mem hm n).1 (by decide) _

/-- The STAT that ADVANCE leaves, from the LY and the counter it leaves. -/
theorem advance_stat (hm : s.mem.wf = true) (n : Nat) :
    (advance n s).reg .stat =
      statWriteBack (s.reg .stat) ((advance n s).reg .ly == s.reg .lyc)
        (modeOf s.displayEnabled ((advance n s).reg .ly).toNat (advance n s).counter) := by
  rw [advance_ly hm, ← countdown_reg hm n (r := .lyc) (by decide)]
  exact reg_writeReg_same (countdown_mem hm n).1 _ _

/-- The fields of the byte written back to STAT. -/
theorem statWriteBack_kept (stat0 : Byte) (isMatch : Bool) (mode : BitVec 2) :
    (statWriteBack stat0 isMatch mode).extractLsb' 3 5 = stat0.extractLsb' 3 5 := by
  revert stat0 isMatch mode; decide

theorem statWriteBack_match (stat0 : Byte) (isMatch : Bool) (mode : BitVec 2) :
    testBit (statWriteBack stat0 isMatch mode) 2 = isMatch := by
  revert stat0 isMatch mode; decide

theorem statWriteBack_mode (stat0 : Byte) (isMatch : Bool) (mode : BitVec 2) :
    statMode (statWriteBack stat0 isMatch mode) = mode := by
  revert stat0 isMatch mode; decide

theorem statWriteBack_self (stat : Byte) : statWriteBack stat (testBit stat 2) (statMode stat) = stat := by
  revert stat; decide

end Sys2Proof.Machine
end

