-- ==== Sys2Proof/Tests/Slice0.lean ====
section
/-! SUPPORT. Tests: ill-formed terms, words written out from the format table, one or two steps of each command, and for
every statement with hypotheses a state and operands that meet them. Expected results are those of
spec/95_test_vectors.md, whose test each comment names, or are computed by hand from the rules. -/

namespace Sys2Proof.Tests

open Sys2Proof Sys2Proof.Machine

/-! ## Well-formedness -/

theorem test_wf_refuses_advance : (Instr.advance 65536).wf = false ∧ (Instr.advance 65535).wf = true := by decide
theorem test_wf_refuses_palLookup : (Instr.palLookup 4 0).wf = false ∧ (Instr.palLookup 3 0xFF).wf = true := by decide
theorem test_wf_refuses_fbRead_row : (Instr.fbRead 256 0).wf = false := by decide
theorem test_wf_refuses_fbRead_col : (Instr.fbRead 0 256).wf = false ∧ (Instr.fbRead 255 255).wf = true := by decide
theorem test_wf_refuses_fill : (Pseudo.fill 0xFFFF 2 0).wf = false ∧ (Pseudo.fill 0xFFFF 1 0).wf = true := by decide

/-! ## Words written out bit by bit from the format table (R96; opcode_table.json) -/

theorem test_decode_advance : decode 0b0000_000000000000_0000000111001000#32 = .ok (.advance 456) := by decide
theorem test_decode_renderLine : decode 0b0001_0000000000000000000000000000#32 = .ok .renderLine := by decide
theorem test_decode_renderBg : decode 0b0010_0000000000000000000000000000#32 = .ok .renderBg := by decide
theorem test_decode_renderObj : decode 0b0011_0000000000000000000000000000#32 = .ok .renderObj := by decide
theorem test_decode_palLookup : decode 0b0100_000000000000000000_10_11100100#32 = .ok (.palLookup 2 0xE4) := by decide
theorem test_decode_fbRead : decode 0b0101_000000000000_10001111_10011111#32 = .ok (.fbRead 143 159) := by decide
theorem test_decode_fbClear : decode 0b0110_0000000000000000000000000000#32 = .ok .fbClear := by decide
theorem test_decode_busw : decode 0b0111_0000_0001001000110100_10101011#32 = .ok (.busw 0x1234 0xAB) := by decide
theorem test_decode_busr : decode 0b1000_0000_1111111101000100_00000000#32 = .ok (.busr 0xFF44) := by decide

/-- Reserved bits and reserved operation codes (R99; vectors L1). -/
theorem test_decode_rejects :
    decode 0x00010000 = .error .reservedBits ∧ decode 0x10000001 = .error .reservedBits ∧
    decode 0x40000400 = .error .reservedBits ∧ decode 0x80FF4401 = .error .reservedBits ∧
    decode 0x90000000 = .error .reservedOp ∧ decode 0xFFFFFFFF = .error .reservedOp := by decide

theorem test_table_word : decodeTableWord 32 0x701234AB = some (.busw 0x1234 0xAB) ∧ decodeTableWord 32 0x90000000 = none := by
  decide

/-! ## Single steps -/

/-- The reset state with some bytes written. -/
def sample (bytes : List (Nat × Byte)) : State :=
  { State.reset with mem := bytes.foldl (fun m c => m.write c.1 c.2) [] }

/-- The state after a command, where it goes on. -/
def after (i : Instr) (s : State) : Option State := runCommands [i] s

def pixel (t : State) (row : Fin 144) (col : Fin 160) : Rgb := (t.fb.row row)[col]

/-- Vector A5: V-Blank entry requests both interrupts. -/
theorem test_advance_vblank :
    (after (.advance 4) { sample [(0xFF40, 0x80), (0xFF44, 143), (0xFF41, 0x10)] with counter := 4 }).map
      (fun t => (t.counter, t.reg .ly, t.reg .stat, t.resp)) =
    some (456, 144, 0x11, ⟨false, 0, true, true, false⟩) := by decide +kernel

/-- Vector A10: while disabled the mode is 0, and the change to it requests LCD-STAT. -/
theorem test_advance_disabled :
    (after (.advance 4) { sample [(0xFF44, 77), (0xFF41, 0x0A)] with counter := 100 }).map
      (fun t => (t.counter, t.reg .ly, t.reg .stat, t.resp)) =
    some (456, 77, 0x08, ⟨false, 0, false, true, false⟩) := by decide +kernel

/-- Vector L2-3: background and sprites enabled, the sprite's tile over the background's. -/
theorem test_renderLine :
    (after .renderLine (sample [(0xFF40, 0x83), (0xFF47, 0xE4), (0xFF48, 0xE4), (0x9000, 0xFF), (0x9001, 0xFF),
        (0x8010, 0xFF), (0xFE00, 16), (0xFE01, 8), (0xFE02, 1)])).map
      (fun t => (pixel t 0 0, pixel t 0 7, pixel t 0 8, pixel t 0 159)) =
    some (lgray, lgray, black, black) := by decide +kernel

/-- Vectors B2 and B3: SCX 0xFC wraps to the last map column, SCY 0xFF wraps to the first map row. -/
theorem test_renderBg_scroll :
    (after .renderBg (sample [(0xFF40, 0x91), (0xFF47, 0xE4), (0xFF43, 0xFC), (0x981F, 1), (0x9800, 2), (0x8010, 0xFF),
        (0x8021, 0xFF)])).map
      (fun t => (pixel t 0 3, pixel t 0 4, pixel t 0 11, pixel t 0 12)) =
    some (lgray, dgray, dgray, white) ∧
    (after .renderBg (sample [(0xFF40, 0x91), (0xFF44, 1), (0xFF47, 0xE4), (0xFF42, 0xFF), (0x8000, 0xFF),
        (0x8001, 0xFF)])).map (fun t => (pixel t 1 0, pixel t 1 159)) = some (black, black) := by decide +kernel

/-- Vector B8: the window's row is LY − WY. -/
theorem test_renderBg_window :
    (after .renderBg (sample [(0xFF40, 0xF1), (0xFF44, 20), (0xFF47, 0xE4), (0xFF4A, 10), (0xFF4B, 7), (0x9C20, 1),
        (0x8014, 0xFF), (0x8015, 0xFF)])).map
      (fun t => (pixel t 20 0, pixel t 20 7, pixel t 20 8)) = some (black, black, white) := by decide +kernel

/-- The sprite of vectors S16: tile 3, priority, over one BLACK pixel at column 3. -/
def prioritySample (v : PrioVariant) : State :=
  let s := sample ((List.range 8).map (fun r => (0x8030 + 2 * r, 0xFF)) ++
    [(0xFF40, 0x82), (0xFF48, 0xE4), (0xFE00, 16), (0xFE01, 8), (0xFE02, 3), (0xFE03, 0x80)])
  { s with fb := s.fb.setRow 0 ((s.fb.row 0).set 3 black), cfg := { defaultConfig with prioVariant := v } }

/-- Vectors S16, `Scenario`, and S5: the attribute's bit 4 selects OBP1. -/
theorem test_renderObj_scenario :
    (after .renderObj (prioritySample .scenario)).map
      (fun t => (pixel t 0 2, pixel t 0 3, pixel t 0 7, pixel t 0 8)) =
    some (white, lgray, lgray, white) ∧
    (after .renderObj (sample [(0xFF40, 0x82), (0xFF48, 0xE4), (0xFF49, 0x1B), (0x8010, 0xC0), (0x8011, 0x80),
        (0xFE00, 16), (0xFE01, 8), (0xFE02, 1), (0xFE03, 0x10)])).map
      (fun t => (pixel t 0 0, pixel t 0 1, pixel t 0 2)) = some (white, dgray, white) := by decide +kernel

/-- Vector S16, `Prose`. -/
theorem test_renderObj_prose :
    (after .renderObj (prioritySample .prose)).map
      (fun t => (pixel t 0 2, pixel t 0 3, pixel t 0 4, pixel t 0 8)) =
    some (lgray, black, lgray, white) := by decide +kernel

/-- R218: palette 0xE4 maps index 2 to shade 2. -/
theorem test_palLookup : (after (.palLookup 2 0xE4) State.reset).map (·.resp.data) = some 0x777777 := by decide

/-- The last pixel, and the first row outside (R219). -/
theorem test_fbRead_last :
    (after (.fbRead 143 159) { State.reset with fb := Frame.fill lgray }).map (·.resp) =
      some ⟨false, 0xCCCCCC, false, false, false⟩ := by decide +kernel
theorem test_fbRead_outside :
    (after (.fbRead 144 0) State.reset).map (fun t => (t.resp, t.faults)) =
      some (⟨true, 0, false, false, false⟩, [.badPixel]) := by decide

theorem test_fbClear :
    (after .fbClear { State.reset with fb := Frame.fill black }).map (fun t => (pixel t 0 0, pixel t 143 159)) =
      some (white, white) := by decide +kernel

/-- A write of what an unlisted address reads as removes the cell. -/
theorem test_busw :
    (after (.busw 0xC000 0x12) (sample [(0x8000, 1)])).map (·.mem) = some [(0x8000, 1), (0xC000, 0x12)] ∧
    (after (.busw 0x8000 0) (sample [(0x8000, 1)])).map (·.mem) = some [] := by decide

theorem test_busr : (after (.busr 0xFF44) (sample [(0xFF44, 0x90)])).map (·.resp.data) = some 0x000090 := by decide

/-- The very next step runs the word the host sends. -/
theorem test_step_runs_fetched_word :
    (match step (State.reset.withFetchWord 32 0x70FF4490) with
      | .next t => some (t.reg .ly, t.port)
      | .fault _ => none
      | .refused _ => none) = some (0x90, []) := by decide

/-! ## The assembler (R101, R102) -/

theorem test_parse_busw :
    parseLine ['B', 'U', 'S', 'W', ' ', 'L', 'Y', ',', ' ', '0', 'x', '9', '0', ' ', ';', 'x'] =
      some [.busw 0xFF44 0x90] := by decide +kernel
theorem test_parse_refuses_range :
    parseLine ['P', 'A', 'L', '_', 'L', 'O', 'O', 'K', 'U', 'P', ' ', '4', ',', '0'] = none := by decide +kernel

/-! ## Hypotheses that can be met -/

/-- The display on, at a line and a counter. -/
def lineAt (ly : Byte) (counter : Int) : State := { sample [(0xFF40, 0x80), (0xFF44, ly)] with counter := counter }

theorem witness_DecodeOfEncodeIsTheCommand :
    (Instr.advance 65535).wf = true ∧ (Instr.fbRead 255 255).wf = true ∧ (Instr.palLookup 3 0).wf = true := by decide

theorem witness_EncodeOfDecodeIsTheWord : decode 0x500090A0 = .ok (.fbRead 144 160) := by decide

theorem witness_DecodesExactlyTheOpcodeTable :
    decode 0x70FFFFFF = .ok (.busw 0xFFFF 0xFF) ∧ (Instr.busw 0xFFFF 0xFF).row ∈ opcodeTable ∧
    (Instr.busw 0xFFFF 0xFF).row.matches 0x70FFFFFF = true ∧
    9 ≤ ((0x90000000 : Word).extractLsb' 28 4).toNat ∧ 9 ≤ ((0xFFFFFFFF : Word).extractLsb' 28 4).toNat := by decide

theorem witness_StepRunsTheDecodedCommand :
    (State.reset.withFetchWord 32 0x80FF4400).port = 0x80FF4400 :: [] ∧ decode 0x80FF4400 = .ok (.busr 0xFF44) := by
  decide

theorem witness_IllegalWordIsRecordedAndAnswered :
    (State.reset.withFetchWord 32 0xF0000000).port = 0xF0000000 :: [] ∧ decode 0xF0000000 = .error .reservedOp := by
  decide

theorem witness_StepWithoutCommandChangesNothing : State.reset.port = [] := rfl

theorem witness_EveryStepKeepsTheInvariant :
    ((lineAt 143 1).withFetchWord 32 1).Inv ∧ ∃ t, step ((lineAt 143 1).withFetchWord 32 1) = .next t :=
  ⟨⟨by decide, by decide, by decide, Response.ok_legal⟩, _, rfl⟩

theorem witness_ResetMeetsTheInvariant : Memory.wf [(0, 1), (0xFFFF, 1)] = true := by decide

theorem witness_OnlyAdvanceMovesTimeAndMakesRequests :
    (∀ n, Instr.busr 0xFFFF ≠ .advance n) ∧ ∃ t, exec (.busr 0xFFFF) State.reset = .next t :=
  ⟨by simp, _, rfl⟩

theorem witness_MemoryWritersAreAdvanceAndBusw :
    (lineAt 5 1).mem.wf = true ∧
    (∃ t, exec (.advance 1) (lineAt 5 1) = .next t ∧ t.readDirectly 0xFF44 ≠ (lineAt 5 1).readDirectly 0xFF44) ∧
    ∃ t, exec (.busw 0xFFFF 1) (lineAt 5 1) = .next t ∧ t.readDirectly 0xFFFF ≠ (lineAt 5 1).readDirectly 0xFFFF :=
  ⟨by decide, ⟨_, rfl, by decide +kernel⟩, ⟨_, rfl, by decide +kernel⟩⟩

/-- A background row of BLACK at LY, on a white frame. -/
def blackLine (ly : Byte) (counter : Int) : State :=
  { sample [(0xFF40, 0x91), (0xFF44, ly), (0xFF47, 0xFF)] with counter := counter }

theorem renderBg_next {s : State} {ly : Fin 144} (h : (s.reg .ly).toNat = ly) :
    exec .renderBg s = .next ((renderBg ly s).respond Response.ok) := renderCurrentLine_of_row h renderBg

theorem renderObj_next {s : State} {ly : Fin 144} (h : (s.reg .ly).toNat = ly) :
    exec .renderObj s = .next ((renderObj ly s).respond Response.ok) := renderCurrentLine_of_row h renderObj

/-- A byte outside a range of addresses, written, leaves the range as it reads. -/
theorem read_outside {s : State} (hm : s.mem.wf = true) (b : Addr) (v : Byte) {lo hi : Nat} (h : b.toNat < lo ∨ hi < b.toNat)
    (a : Nat) (hlo : lo ≤ a) (hhi : a ≤ hi) : s.mem.read a = (s.writeDirectly b v).mem.read a :=
  (Memory.read_write_other hm (by omega) v).symm

theorem row_ne_of_pixel {a b : Row} (c : Fin 160) (h : a[c] ≠ b[c]) : a ≠ b := fun e => h (by rw [e])

theorem witness_FrameBufferWriters :
    (blackLine 143 1).mem.wf = true ∧
    (∃ t, exec .fbClear { blackLine 143 1 with fb := Frame.fill black } = .next t ∧
      t.fb.row 0 ≠ (Frame.fill black).row 0) ∧
    (∃ t, exec .renderBg (blackLine 143 1) = .next t ∧ t.fb.row 143 ≠ (blackLine 143 1).fb.row 143) ∧
    ∃ t, exec (.advance 1) (blackLine 142 1) = .next t ∧ t.fb.row 143 ≠ (blackLine 142 1).fb.row 143 :=
  ⟨by decide, ⟨_, rfl, row_ne_of_pixel 0 (by decide +kernel)⟩,
    ⟨_, renderBg_next (s := blackLine 143 1) (ly := 143) (by decide), row_ne_of_pixel 0 (by decide +kernel)⟩,
    ⟨_, rfl, row_ne_of_pixel 0 (by decide +kernel)⟩⟩

theorem witness_FaultingStepChangesNothingElse :
    (State.reset.withFetchWord 32 0x90000000).port ≠ [] ∧
    (∃ t, step (State.reset.withFetchWord 32 0x90000000) = .next t ∧ t.resp.err = true) ∧
    ∃ t, step (State.reset.withFetchWord 32 0x70000001) = .next t ∧ t.resp.err = false :=
  ⟨by decide, ⟨_, rfl, by decide⟩, ⟨_, rfl, by decide⟩⟩

theorem witness_CommandsFaultExactlyWhereTheTableSays :
    (∃ t, exec .renderObj (lineAt 144 1) = .next t ∧ t.resp.err = true) ∧
    (∃ t, exec (.fbRead 0 160) (lineAt 144 1) = .next t ∧ t.resp.err = true) ∧
    ∃ t, exec (.fbRead 143 159) (lineAt 144 1) = .next t ∧ t.resp.err = false :=
  ⟨⟨_, rfl, by decide⟩, ⟨_, rfl, by decide⟩, ⟨_, rfl, by decide⟩⟩

theorem witness_BuswStoresOneByte : (lineAt 144 1).mem.wf = true ∧ (0xFFFF : Addr) ≠ 0 := by decide

theorem witness_MemoryReturnsTheLastByteWritten :
    Memory.wf [(0, 1), (0xFFFF, 1)] = true ∧
    (runCommands ([(0, 2), (0, 3)].map fun p => .busw p.1 p.2)
      (State.resetWith defaultConfig [(0, 1), (0xFFFF, 1)])).map (fun t => (t.readDirectly 0, t.readDirectly 0xFFFF)) =
      some (3, 1) := by decide

theorem witness_MemoriesThatReadAlikeAreEqual :
    let m := Memory.write [] 5 1
    let m' := Memory.write (Memory.write (Memory.write [] 0xFFFF 2) 5 1) 0xFFFF 0
    m.wf = true ∧ m'.wf = true ∧ ∀ a : Addr, m.read a.toNat = m'.read a.toNat :=
  ⟨by decide, by decide, fun _ => rfl⟩

theorem witness_RegistersAreSeparateBytes :
    (lineAt 144 1).mem.wf = true ∧ (0xFFFF : Addr) ≠ regAddr .lcdc ∧ (0xFF46 : Addr) ≠ regAddr .lyc := by decide

theorem witness_BitRegisterLaws : 0 < 8 ∧ 7 < 8 ∧ (7 : Nat) ≠ 0 := by decide

/-- A policy that lets writes through below an address. -/
def openBelow (a : Addr) : ModeAccessPolicy := ⟨fun _ _ => true, fun _ b => decide (b < a), fun _ _ => 0xFF⟩

theorem witness_CpuWriteActsAsBusw :
    (openBelow 0xFF45).mayWrite State.reset 0xFF44 = true ∧ (openBelow 0xFF44).mayWrite State.reset 0xFF44 = false := by
  decide

theorem witness_PendingFlagsMergeRequests :
    (∃ q t, stepWithSink pendingSink ⟨true, false⟩ State.reset = some (q, t)) ∧ State.reset.port = [] ∧
    (∃ q t, stepWithSink pendingSink ⟨false, false⟩ ((lineAt 143 1).withFetchWord 32 1) = some (q, t) ∧
      t.resp.irqVblank = true) ∧ ((lineAt 143 1).withFetchWord 32 1).port ≠ [] :=
  ⟨⟨_, _, rfl⟩, rfl, ⟨_, _, rfl, by decide +kernel⟩, by decide⟩

theorem witness_FillWritesItsBytes :
    State.reset.mem.wf = true ∧ (Pseudo.fill 0xFFFE 2 1).wf = true ∧ (Pseudo.fill 0 0 1).wf = true := by decide

theorem witness_PalLookupReturnsTheShade :
    3 ≤ 3 ∧ (0x3F : Byte).toNat / 4 ^ 3 % 4 = 0 ∧ (0x7F : Byte).toNat / 4 ^ 3 % 4 = 1 ∧
    (0x02 : Byte).toNat / 4 ^ 0 % 4 = 2 ∧ (0x03 : Byte).toNat / 4 ^ 0 % 4 = 3 := by decide

theorem witness_PaletteTables : 0 < 4 ∧ 3 < 4 := by decide

theorem witness_FbReadReturnsThePixel : (144 ≤ 144 ∨ 160 ≤ 0) ∧ (144 ≤ 0 ∨ 160 ≤ 160) := by decide

theorem witness_RenderBgWritesEveryPixelOfTheRow :
    ((blackLine 0 1).reg .ly).toNat = (0 : Fin 144) ∧ ((blackLine 143 1).reg .ly).toNat = (143 : Fin 144) ∧
    (0 : Fin 144) ≠ 143 := by decide

theorem witness_RenderBgTwiceIsRenderBgOnce :
    ((blackLine 143 1).reg .ly).toNat < 144 ∧ ∃ t, exec .renderBg (blackLine 143 1) = .next t :=
  ⟨by decide, _, renderBg_next (s := blackLine 143 1) (ly := 143) (by decide)⟩

/-- Two states that differ in a byte the background does not read and in the whole frame buffer. -/
theorem witness_RenderBgReadsOnlyItsBytes :
    let s := blackLine 143 1
    let s' := { s.writeDirectly 0xA000 1 with fb := Frame.fill dgray }
    s.mem ≠ s'.mem ∧ s.fb.row 143 ≠ s'.fb.row 143 ∧ (s.reg .ly).toNat = (143 : Fin 144) ∧
    (∀ r, r ∈ [Reg.lcdc, Reg.ly, Reg.scy, Reg.scx, Reg.wy, Reg.wx, Reg.bgp] → s.reg r = s'.reg r) ∧
    (∀ a, 0x8000 ≤ a → a ≤ 0x9FFF → s.mem.read a = s'.mem.read a) ∧
    ∃ t t', exec .renderBg s = .next t ∧ exec .renderBg s' = .next t' :=
  ⟨by decide, row_ne_of_pixel 0 (by decide +kernel), by decide, by decide,
    read_outside (s := blackLine 143 1) (by decide) 0xA000 1 (by decide), _, _,
    renderBg_next (s := blackLine 143 1) (ly := 143) (by decide),
    renderBg_next (s := { (blackLine 143 1).writeDirectly 0xA000 1 with fb := Frame.fill dgray }) (ly := 143) (by decide)⟩

/-- Two states that differ in a byte the sprites do not read. -/
theorem witness_RenderObjReadsOnlyItsBytes :
    let s := blackLine 143 1
    let s' := s.writeDirectly 0x9010 1
    s.mem ≠ s'.mem ∧ (∀ r, r ∈ [Reg.lcdc, Reg.ly, Reg.obp0, Reg.obp1] → s.reg r = s'.reg r) ∧
    (∀ a, 0x8000 ≤ a → a ≤ 0x900F → s.mem.read a = s'.mem.read a) ∧
    (∀ a, 0xFE00 ≤ a → a ≤ 0xFE9F → s.mem.read a = s'.mem.read a) ∧ s.cfg = s'.cfg ∧ s.fb = s'.fb ∧
    ∃ t t', exec .renderObj s = .next t ∧ exec .renderObj s' = .next t' :=
  ⟨by decide, by decide, read_outside (s := blackLine 143 1) (by decide) 0x9010 1 (by decide),
    read_outside (s := blackLine 143 1) (by decide) 0x9010 1 (by decide), rfl, rfl, _, _,
    renderObj_next (s := blackLine 143 1) (ly := 143) (by decide),
    renderObj_next (s := (blackLine 143 1).writeDirectly 0x9010 1) (ly := 143) (by decide)⟩

/-- A tall sprite whose Y byte 144 puts line 143 in its last row, with every attribute bit set. -/
def tallSprite : State :=
  sample [(0xFF40, 0x86), (0xFF44, 143), (0xFE9C, 144), (0xFE9D, 167), (0xFE9E, 0xFF), (0xFE9F, 0xF0)]

theorem witness_RendererAddressesStayInTheMap :
    39 < oamEntries ∧ (oamEntry tallSprite.mem 39).covers (spriteHeight (tallSprite.mem.reg .lcdc)) (143 : Fin 144) = true := by
  decide

theorem witness_RenderObjDrawsEveryCoveringEntry :
    (tallSprite.reg .ly).toNat = (143 : Fin 144) ∧ (tallSprite.mem.read (0xFE00 + 4 * 39)).toNat ≤ 143 + 16 ∧
    143 + 16 < (tallSprite.mem.read (0xFE00 + 4 * 39)).toNat + (if testBit (tallSprite.reg .lcdc) 2 then 16 else 8) := by
  decide

theorem witness_SpriteLineIsAssembledFromItsEntry :
    (tallSprite.mem.read (0xFE00 + 4 * 39)).toNat ≤ 143 + 16 ∧
    143 + 16 < (tallSprite.mem.read (0xFE00 + 4 * 39)).toNat + (if testBit (tallSprite.mem.reg .lcdc) 2 then 16 else 8) ∧
    7 < 8 := by decide

theorem witness_SpritesThatCoverNoVisibleLine :
    (oamEntry [(0xFE00, 8)] 0).covers 8 0 = false ∧ (oamEntry [(0xFE00, 8)] 0).covers 16 0 = true ∧
    (oamEntry [(0xFE00, 9)] 0).covers 8 0 = true ∧ (oamEntry [(0xFE00, 159)] 0).covers 8 143 = true ∧
    (oamEntry [(0xFE00, 160)] 0).covers 16 143 = false ∧ (oamEntry [] 0).covers 16 0 = false := by decide

theorem witness_SpritesOffTheScreenDrawNothing :
    (Memory.read [] (oamBase + 4 * 0 + 1)).toNat = 0 ∧ 168 ≤ (Memory.read [(0xFE9D, 168)] (oamBase + 4 * 39 + 1)).toNat := by
  decide

/-- A sprite's line at screen column 0, with colour index `v` in every column, under palette 0xE4. -/
def plainLine (v attr : Byte) : SpriteLine := ⟨⟨0, 0, 0, attr⟩, ⟨v, v⟩, 0xE4⟩

theorem witness_TransparencyDecidesWhatIsDrawn :
    (∀ c, c < 8 → (plainLine 0 0).column c ≠ some 8) ∧ (plainLine 0 0).column 7 = some 7 ∧
    defaultConfig.objTransparency = .index0 ∧ (plainLine 0 0).ci 7 = 0 ∧ (plainLine 0xFF 0).ci 7 ≠ 0 ∧
    (plainLine 0 0).palette.toNat / 4 ^ (plainLine 0 0).ci 7 % 4 = 0 ∧
    (plainLine 0xFF 0).palette.toNat / 4 ^ (plainLine 0xFF 0).ci 7 % 4 ≠ 0 ∧ (plainLine 0xFF 0).entry.prio = false := by
  decide

theorem plainLine_opaque (c : Nat) (h : c < 8) : (plainLine 0xFF 0x80).Opaque defaultConfig c := by
  refine ⟨h, ?_⟩
  revert h
  revert c
  decide

theorem plainLine_over {row : Row} {c : Nat} {sx : Fin 160} (hc : (plainLine 0xFF 0x80).column c = some sx) :
    (plainLine 0xFF 0x80).OverNonWhite row c ↔ row[sx] ≠ white := by
  refine ⟨fun ⟨sx', h, hn⟩ => ?_, fun h => ⟨sx, hc, h⟩⟩
  rw [hc] at h
  cases h
  exact hn

/-- Column 0 over WHITE, then column 1 over BLACK: both clauses, at the columns where they meet. -/
theorem witness_ScenarioShowsFromTheFirstNonWhite :
    let l := plainLine 0xFF 0x80
    let row : Row := (Vector.replicate 160 white).set 1 black
    defaultConfig.prioVariant = .scenario ∧ l.entry.prio = true ∧ l.Opaque defaultConfig 1 ∧ l.column 1 = some 1 ∧
    (∃ c', c' ≤ 1 ∧ l.Opaque defaultConfig c' ∧ l.OverNonWhite row c') ∧ l.Opaque defaultConfig 0 ∧
    l.column 0 = some 0 ∧ ∀ c', c' ≤ 0 → l.Opaque defaultConfig c' → ¬ l.OverNonWhite row c' := by
  refine ⟨rfl, by decide, plainLine_opaque 1 (by decide), by decide,
    ⟨1, le_refl _, plainLine_opaque 1 (by decide), (plainLine_over (sx := 1) (by decide)).mpr (by decide +kernel)⟩,
    plainLine_opaque 0 (by decide), by decide, fun c' h _ => ?_⟩
  rw [Nat.le_zero.mp h, plainLine_over (sx := 0) (by decide)]
  decide +kernel

/-- Column 1 is the first over non-WHITE; column 0 lies over WHITE and column 2 after the first. -/
theorem witness_ProseHidesOnlyTheFirstNonWhite :
    let l := plainLine 0xFF 0x80
    let row : Row := ((Vector.replicate 160 white).set 1 black).set 2 black
    let cfg := { defaultConfig with prioVariant := .prose }
    cfg.prioVariant = .prose ∧ l.entry.prio = true ∧ (∀ c, c < 8 → l.Opaque cfg c) ∧
    (l.column 0 = some 0 ∧ row[(0 : Fin 160)] = white) ∧
    (l.column 1 = some 1 ∧ row[(1 : Fin 160)] ≠ white ∧ ∀ c', c' < 1 → l.Opaque cfg c' → ¬ l.OverNonWhite row c') ∧
    (l.column 2 = some 2 ∧ ∃ c', c' < 2 ∧ l.Opaque cfg c' ∧ l.OverNonWhite row c') := by
  refine ⟨rfl, by decide, plainLine_opaque, ⟨by decide, by decide +kernel⟩,
    ⟨by decide, by decide +kernel, fun c' h _ => ?_⟩,
    ⟨by decide, 1, by decide, plainLine_opaque 1 (by decide), (plainLine_over (sx := 1) (by decide)).mpr (by decide +kernel)⟩⟩
  rw [Nat.lt_one_iff.mp h, plainLine_over (sx := 0) (by decide)]
  decide +kernel

/-- The priority scenario, on tile 3 and one BLACK pixel at column 1. -/
def scenarioState : State :=
  { prioritySample .scenario with fb := Frame.setRow (Frame.fill white) 0 ((Vector.replicate 160 white).set 1 black) }

theorem witness_PriorityScenarioOfTheSource :
    let s := scenarioState
    s.reg .ly = 0 ∧ s.readDirectly 0xFE00 = 16 ∧ s.readDirectly 0xFE01 = 8 ∧ s.readDirectly 0xFE03 = 0x80 ∧
    (∀ i, 0 < i → i < 40 → s.mem.read (0xFE00 + 4 * i) = 0) ∧ (∀ c, c < 8 → (spriteLine s.mem 0 0).Opaque s.cfg c) ∧
    (s.fb.row 0)[0] = white ∧ (s.fb.row 0)[1] = black ∧
    ∀ c : Fin 160, 2 ≤ c.val → c.val ≤ 7 → (s.fb.row 0)[c] = white := by
  refine ⟨by decide, by decide, by decide, by decide, ?_, fun c h => ⟨h, ?_⟩, by decide +kernel, by decide +kernel,
    fun c h2 h7 => ?_⟩
  · have hall : ∀ i : Fin 40, 0 < i.val → scenarioState.mem.read (0xFE00 + 4 * i) = 0 := by decide +kernel
    exact fun i h h' => hall ⟨i, h'⟩ h
  · revert c
    decide +kernel
  · have : (1 : Nat) ≠ c := by omega
    simp [scenarioState, Frame.row, Frame.setRow, this]

theorem witness_RenderLineRunsTheEnabledRenderers :
    ((sample [(0xFF44, 143)]).reg .ly).toNat < 144 ∧
    (testBit ((sample [(0xFF40, 3)]).reg .lcdc) 0 = true ∧ testBit ((sample [(0xFF40, 3)]).reg .lcdc) 1 = true) ∧
    (testBit ((sample [(0xFF40, 1)]).reg .lcdc) 0 = true ∧ testBit ((sample [(0xFF40, 1)]).reg .lcdc) 1 = false) ∧
    (testBit ((sample [(0xFF40, 2)]).reg .lcdc) 0 = false ∧ testBit ((sample [(0xFF40, 2)]).reg .lcdc) 1 = true) ∧
    testBit (State.reset.reg .lcdc) 0 = false ∧ testBit (State.reset.reg .lcdc) 1 = false := by decide

theorem witness_RenderCommandsFaultPastTheLastRow : 144 ≤ ((lineAt 144 1).reg .ly).toNat := by decide

theorem witness_AdvanceCompletesAndKeepsTheRest :
    (lineAt 153 1).mem.wf = true ∧ (0xFFFF : Addr) ≠ regAddr .ly ∧ (0xFFFF : Addr) ≠ regAddr .stat := by decide

theorem witness_AdvanceWhileDisabled :
    let s := sample [(0xFF41, 0x0A)]
    s.mem.wf = true ∧ testBit (s.reg .lcdc) 7 = false ∧ statMode (s.reg .stat) ≠ 0 ∧ testBit (s.reg .stat) 3 = true := by
  decide

theorem witness_AdvanceWithinALine :
    (lineAt 5 5).mem.wf = true ∧ testBit ((lineAt 5 5).reg .lcdc) 7 = true ∧ 0 < (lineAt 5 5).counter - (4 : Nat) := by
  decide

theorem witness_AdvanceToTheNextLine :
    (lineAt 153 4).mem.wf = true ∧ testBit ((lineAt 153 4).reg .lcdc) 7 = true ∧ (lineAt 153 4).counter - (4 : Nat) ≤ 0 ∧
    153 ≤ ((lineAt 153 4).reg .ly).toNat ∧ ¬ 153 ≤ ((lineAt 152 4).reg .ly).toNat ∧
    ((lineAt 143 4).reg .ly).toNat = 143 := by decide

theorem witness_AdvanceRendersTheNewLine :
    (lineAt 142 4).mem.wf = true ∧ testBit ((lineAt 142 4).reg .lcdc) 7 = true ∧ (lineAt 142 4).counter - (4 : Nat) ≤ 0 ∧
    (∃ t, exec (.advance 4) (lineAt 142 4) = .next t) ∧ ((lineAt 142 4).reg .ly).toNat ≤ 142 ∧
    143 ≤ ((lineAt 143 4).reg .ly).toNat :=
  ⟨by decide, by decide, by decide, ⟨_, rfl⟩, by decide, by decide⟩

theorem witness_AdvanceNeverRendersRowZero : ∃ t, exec (.advance 4) (lineAt 255 4) = .next t := ⟨_, rfl⟩

/-- Each mode, at the bound of its range. -/
theorem witness_AdvanceWritesStatBack :
    (lineAt 3 380).mem.wf = true ∧
    (∃ t, exec (.advance 0) (lineAt 144 380) = .next t ∧ 144 ≤ (t.reg .ly).toNat) ∧
    (∃ t, exec (.advance 4) (lineAt 143 380) = .next t ∧ t.counter = 376) ∧
    (∃ t, exec (.advance 5) (lineAt 143 380) = .next t ∧ t.counter = 375) ∧
    (∃ t, exec (.advance 176) (lineAt 143 380) = .next t ∧ t.counter = 204) ∧
    ∃ t, exec (.advance 177) (lineAt 143 380) = .next t ∧ t.counter = 203 :=
  ⟨by decide, ⟨_, rfl, by decide +kernel⟩, ⟨_, rfl, by decide +kernel⟩, ⟨_, rfl, by decide +kernel⟩,
    ⟨_, rfl, by decide +kernel⟩, ⟨_, rfl, by decide +kernel⟩⟩

/-- A request for the mode, one for the match, and none (vectors A12, A14, A18). -/
theorem witness_AdvanceRequestsLcdStat :
    (lineAt 3 380).mem.wf = true ∧
    (∃ t, exec (.advance 8) { sample [(0xFF40, 0x80), (0xFF44, 3), (0xFF41, 0x0B)] with counter := 208 } = .next t ∧
      t.resp.irqStat = true) ∧
    (∃ t, exec (.advance 8) { sample [(0xFF40, 0x80), (0xFF44, 4), (0xFF45, 5), (0xFF41, 0x40)] with counter := 8 } =
      .next t ∧ t.resp.irqStat = true) ∧
    ∃ t, exec (.advance 4) { sample [(0xFF40, 0x80), (0xFF44, 3), (0xFF41, 0x22)] with counter := 380 } = .next t ∧
      t.resp.irqStat = false :=
  ⟨by decide, ⟨_, rfl, by decide +kernel⟩, ⟨_, rfl, by decide +kernel⟩, ⟨_, rfl, by decide +kernel⟩⟩

theorem witness_AdvanceBringsStatUpToDate :
    (lineAt 3 380).mem.wf = true ∧ ∃ t, exec (.advance 4) (lineAt 3 380) = .next t := ⟨by decide, _, rfl⟩

theorem witness_RequestFiresOncePerMode :
    let s := { sample [(0xFF40, 0x80), (0xFF44, 5), (0xFF45, 5), (0xFF41, 0x60)] with counter := 456 }
    s.mem.wf = true ∧ s.cfg.lycIrqMode = .edge ∧
    ∃ t u, exec (.advance 4) s = .next t ∧ exec (.advance 4) t = .next u ∧ t.resp.irqStat = true ∧
      statMode (u.reg .stat) = statMode (t.reg .stat) ∧ statMatch (u.reg .stat) = statMatch (t.reg .stat) :=
  ⟨by decide, by decide, _, _, rfl, rfl, by decide +kernel, by decide +kernel, by decide +kernel⟩

theorem witness_AdvanceZeroOnlyRefreshesStat :
    let s := { sample [(0xFF40, 0x80), (0xFF44, 3), (0xFF41, 0x78)] with counter := 1 }
    let s' := { sample [(0xFF44, 3), (0xFF41, 0x78)] with counter := 456 }
    (s.Inv ∧ s.StatCurrent ∧ s.cfg.lycIrqMode = .edge ∧ testBit (s.reg .lcdc) 7 = true) ∧
    s'.Inv ∧ s'.StatCurrent ∧ s'.cfg.lycIrqMode = .edge ∧ s'.counter = 456 :=
  ⟨⟨⟨by decide, by decide, by decide, Response.ok_legal⟩, ⟨by decide, by decide⟩, by decide, by decide⟩,
    ⟨by decide, by decide, by decide, Response.ok_legal⟩, ⟨by decide, by decide⟩, by decide, by decide⟩

theorem witness_OneLineHoweverSplit :
    (lineAt 152 456).mem.wf = true ∧ testBit ((lineAt 152 456).reg .lcdc) 7 = true ∧ (lineAt 152 456).counter = 456 ∧
    ((lineAt 152 456).reg .ly).toNat < 153 ∧ [80, 172, 0].sum + 204 = 456 ∧ 0 < 204 := by decide

theorem witness_FrameIs154LinePeriods :
    (lineAt 153 456).mem.wf = true ∧ testBit ((lineAt 153 456).reg .lcdc) 7 = true ∧ (lineAt 153 456).counter = 456 ∧
    ((lineAt 153 456).reg .ly).toNat ≤ 153 := by decide

theorem witness_VBlankAndFrameEndFireOnEntry :
    (lineAt 143 1).mem.wf = true ∧ (∃ t, exec (.advance 1) (lineAt 143 1) = .next t ∧ (t.reg .ly).toNat = 144) ∧
    ∃ t, exec (.advance 1) (lineAt 153 1) = .next t ∧ (t.reg .ly).toNat = 0 :=
  ⟨by decide, ⟨_, rfl, by decide +kernel⟩, ⟨_, rfl, by decide +kernel⟩⟩

end Sys2Proof.Tests
end

section
/-! The bit operations on a register byte (spec/00_scope.md rules R20, R21): one rule per operation says which value
`testBit` reads at every index `j` after the operation at index `i`. -/

namespace Sys2Proof.Machine

theorem getLsbD_one_shiftLeft {i : Nat} (j : Nat) (hi : i < 8) : (1#8 <<< i).getLsbD j = decide (i = j) := by
  rw [← BitVec.twoPow_eq, BitVec.getLsbD_twoPow, decide_eq_true hi, Bool.true_and]

theorem testBit_setBit (r : Byte) {i : Nat} (j : Nat) (hi : i < 8) :
    testBit (setBit r i) j = (testBit r j || decide (i = j)) := by
  rw [testBit, setBit, BitVec.getLsbD_or, getLsbD_one_shiftLeft j hi, testBit]

/-- The final mask with 0xFF in `clearBit` keeps all 8 bits. -/
theorem clearBit_eq (r : Byte) (i : Nat) : clearBit r i = r &&& ~~~(1#8 <<< i) := BitVec.and_allOnes

theorem testBit_clearBit (r : Byte) {i j : Nat} (hi : i < 8) (hj : j < 8) :
    testBit (clearBit r i) j = (testBit r j && !decide (i = j)) := by
  rw [testBit, clearBit_eq, BitVec.getLsbD_and, BitVec.getLsbD_not, getLsbD_one_shiftLeft j hi, decide_eq_true hj,
    Bool.true_and, testBit]

theorem testBit_toggleBit (r : Byte) {i : Nat} (j : Nat) (hi : i < 8) :
    testBit (toggleBit r i) j = (testBit r j ^^ decide (i = j)) := by
  rw [testBit, toggleBit, BitVec.getLsbD_xor, getLsbD_one_shiftLeft j hi, testBit]

@[simp] theorem toggleBit_toggleBit (r : Byte) (i : Nat) : toggleBit (toggleBit r i) i = r := by
  rw [toggleBit, toggleBit, BitVec.xor_assoc, BitVec.xor_self, BitVec.xor_zero]

@[simp] theorem testBit_clearAll (r : Byte) (i : Nat) : testBit (clearAll r) i = false := BitVec.getLsbD_zero

/-- Settles O23: the laws at `i` and at another index `j` are the two cases of each operation's rule. -/
theorem bitRegisterLaws : Obligations.BitRegisterLaws := by
  intro r i j hi hj
  refine ⟨?set, ?clear, toggleBit_toggleBit r i, ?toggle, testBit_clearAll r i,
    fun hne => ⟨?setOther, ?clearOther, ?toggleOther⟩⟩
  case set => simp [testBit_setBit r i hi]
  case clear => simp [testBit_clearBit r hi hi]
  case toggle => simp [testBit_toggleBit r i hi]
  case setOther => simp [testBit_setBit r j hi, hne.symm]
  case clearOther => simp [testBit_clearBit r hi hj, hne.symm]
  case toggleOther => simp [testBit_toggleBit r j hi, hne.symm]

end Sys2Proof.Machine
end

section
/-! What one command and one step can do (spec/10_state.md rules R31, R52, R74; spec/60_exceptions.md rule R262): the
inversion lemma of `exec` and of `step`, and the statements about all commands that follow from it. -/

namespace Sys2Proof.Machine

variable {s t : State}

/-- A renderer's command, where the renderer writes the frame buffer alone: it answers ok, or it records a fault. -/
theorem renderCurrentLine_frame {render : Fin 144 → State → State} (hr : ∀ ly u, SameButFb u (render ly u))
    (h : renderCurrentLine render s = .next t) :
    (∃ u d, SameButFb s u ∧ t = u.respondData d) ∨ ∃ f, t = s.recordFault f := by
  rcases renderCurrentLine_cases h with ⟨hl, ht⟩ | ⟨_, ht⟩
  · exact .inl ⟨_, 0, hr _ s, ht⟩
  · exact .inr ⟨_, ht⟩

/-- All a command can do: ADVANCE is `advance`, BUSW writes one byte and answers ok, and every other command changes at
most the frame buffer and answers data alone, or records a fault. -/
theorem exec_cases {i : Instr} (h : exec i s = .next t) :
    (∃ n, i = .advance n ∧ t = advance n s) ∨
      (∃ a v, i = .busw a v ∧ t = (s.writeDirectly a v).respond Response.ok) ∨
      (∃ u d, SameButFb s u ∧ t = u.respondData d) ∨ ∃ f, t = s.recordFault f := by
  cases i with
  | advance n => exact .inl ⟨n, rfl, (Host.Outcome.next.inj h).symm⟩
  | busw a v => exact .inr (.inl ⟨a, v, rfl, (Host.Outcome.next.inj h).symm⟩)
  | renderLine => exact .inr (.inr (renderCurrentLine_frame renderLineBody_sameButFb h))
  | renderBg => exact .inr (.inr (renderCurrentLine_frame renderBg_sameButFb h))
  | renderObj => exact .inr (.inr (renderCurrentLine_frame renderObj_sameButFb h))
  | palLookup ci p => exact .inr (.inr (.inl ⟨s, _, .refl s, (Host.Outcome.next.inj h).symm⟩))
  | busr a => exact .inr (.inr (.inl ⟨s, _, .refl s, (Host.Outcome.next.inj h).symm⟩))
  | fbClear => exact .inr (.inr (.inl ⟨_, 0, .setFb s _, (Host.Outcome.next.inj h).symm⟩))
  | fbRead row col =>
    change execFbRead row col s = .next t at h
    unfold execFbRead at h
    split at h
    · exact .inr (.inr (.inl ⟨s, _, .refl s, (Host.Outcome.next.inj h).symm⟩))
    · exact .inr (.inr (.inr ⟨_, (Host.Outcome.next.inj h).symm⟩))

/-- All a step can do: with no word waiting the state stays; else the head word is taken and its command runs, or, where
it is no command, the illegal command is recorded. -/
theorem step_cases (h : step s = .next t) :
    (s.port = [] ∧ t = s) ∨
      ∃ w rest, s.port = w :: rest ∧
        ((∃ i, decode w = .ok i ∧ exec i s.takeWord = .next t) ∨
          (∃ e, decode w = .error e) ∧ t = s.takeWord.recordFault .illegalCommand) := by
  unfold step at h
  split at h
  case h_1 hp => exact .inl ⟨hp, (Host.Outcome.next.inj h).symm⟩
  case h_2 w rest hp =>
    refine .inr ⟨w, rest, hp, ?_⟩
    unfold runWord at h
    split at h
    case h_1 i hi => exact .inl ⟨i, hi, h⟩
    case h_2 e he => exact .inr ⟨⟨e, he⟩, (Host.Outcome.next.inj h).symm⟩

end Sys2Proof.Machine
end

section
/-! The invariant of every run, `State.Inv`: each operation a command ends with keeps it, so every step does (spec/10_state.md
rules R46, R52). -/

namespace Sys2Proof.Machine

variable {s t : State}

theorem Response.requests_legal {v d : Bool} (st : Bool) (h : ¬ (v = true ∧ d = true)) :
    (⟨false, 0, v, st, d⟩ : Response).Legal := ⟨by simp, fun _ => rfl, h⟩

theorem nextLine_irqV_iff (s : State) : (nextLine s).irqV = true ↔ (s.reg .ly).toNat = 143 := by
  change ((s.reg .ly).toNat + 1 == 144) = true ↔ _
  rw [beq_iff_eq]
  omega

theorem nextLine_frameDone_iff (s : State) : (nextLine s).frameDone = true ↔ 153 ≤ (s.reg .ly).toNat := by
  change decide (153 < (s.reg .ly).toNat + 1) = true ↔ _
  rw [decide_eq_true_iff]
  omega

/-- V-Blank begins after line 143 and a frame ends after line 153 or beyond, so one call never does both (R136, R138). -/
theorem countdown_not_vblank_and_done (n : Nat) (s : State) :
    ¬ ((countdown n s).irqV = true ∧ (countdown n s).frameDone = true) := by
  rcases countdown_cases n s with ⟨_, hc⟩ | ⟨_, _, hc⟩ | ⟨_, _, hc⟩ <;> rw [hc]
  · simp
  · simp
  · rw [nextLine_irqV_iff, nextLine_frameDone_iff]
    omega

/-- ADVANCE keeps the counter in its range: it reloads it with 456 or leaves a smaller positive number (R46, R133, R134). -/
theorem advance_counter_range (h : s.counter ≤ 456) (n : Nat) :
    1 ≤ (advance n s).counter ∧ (advance n s).counter ≤ 456 := by
  change 1 ≤ (countdown n s).state.counter ∧ (countdown n s).state.counter ≤ 456
  rcases countdown_cases n s with ⟨_, hc⟩ | ⟨_, hpos, hc⟩ | ⟨_, _, hc⟩ <;> rw [hc]
  · simp [lineBudget]
  · simp only [State.setCounter_counter]
    omega
  · obtain ⟨_, hcounter, _⟩ := nextLine_fields (s.setCounter lineBudget)
    rw [hcounter]
    simp [lineBudget]

theorem advance_resp_legal (n : Nat) (s : State) : (advance n s).resp.Legal :=
  Response.requests_legal _ (countdown_not_vblank_and_done n s)

namespace State.Inv

theorem advance (h : s.Inv) (n : Nat) : (advance n s).Inv :=
  have ⟨hpos, hle⟩ := advance_counter_range h.counter_le n
  ⟨advance_wf h.mem_wf n, hpos, hle, advance_resp_legal n s⟩

theorem writeDirectly (h : s.Inv) (a : Addr) (v : Byte) : (s.writeDirectly a v).Inv :=
  { h with mem_wf := writeDirectly_wf h.mem_wf a v }

theorem sameButFb (h : s.Inv) (ht : SameButFb s t) : t.Inv := by
  rw [ht]
  exact { h with }

theorem respond (h : s.Inv) {r : Response} (hr : r.Legal) : (s.respond r).Inv := { h with resp_legal := hr }

theorem recordFault (h : s.Inv) (f : Fault) : (s.recordFault f).Inv := { h with resp_legal := Response.error_legal }

theorem takeWord (h : s.Inv) : s.takeWord.Inv := { h with }

/-- Every command keeps the invariant. -/
theorem exec {i : Instr} (hs : s.Inv) (h : exec i s = .next t) : t.Inv := by
  rcases exec_cases h with ⟨n, _, rfl⟩ | ⟨a, v, _, rfl⟩ | ⟨u, d, hu, rfl⟩ | ⟨f, rfl⟩
  · exact hs.advance n
  · exact (hs.writeDirectly a v).respond Response.ok_legal
  · exact (hs.sameButFb hu).respond (Response.data_legal d)
  · exact hs.recordFault f

end State.Inv

/-- Settles O9: a step idles, runs a command on the state without its head word, or records the illegal word. -/
theorem everyStepKeepsTheInvariant : Obligations.EveryStepKeepsTheInvariant := by
  intro s t hs h
  rcases step_cases h with ⟨_, rfl⟩ | ⟨w, rest, _, ⟨i, _, hi⟩ | ⟨_, rfl⟩⟩
  · exact hs
  · exact hs.takeWord.exec hi
  · exact hs.takeWord.recordFault .illegalCommand

theorem resetWith_inv (cfg : Config) {image : Memory} (h : image.wf = true) : (State.resetWith cfg image).Inv :=
  ⟨h, by simp [State.resetWith, lineBudget], le_refl _, Response.ok_legal⟩

/-- Settles O10: the reset state is `resetWith` on the empty memory, which is canonical. -/
theorem resetMeetsTheInvariant : Obligations.ResetMeetsTheInvariant :=
  ⟨resetWith_inv defaultConfig rfl, fun cfg _ h => resetWith_inv cfg h⟩

end Sys2Proof.Machine
end

section
/-! The effects that single commands have alone: time and requests (R52, R237, R252), memory writes (R37, R74, R81), and the
run of the word at the port's head (R31, R80, R98). -/

namespace Sys2Proof.Machine

variable {s : State}

/-- Settles O13: no case of `exec_cases` but ADVANCE's touches the counter, and the responses there carry no request. -/
theorem onlyAdvanceMovesTimeAndMakesRequests : Obligations.OnlyAdvanceMovesTimeAndMakesRequests := by
  intro i s t hi h
  rcases exec_cases h with ⟨n, hn, _⟩ | ⟨a, v, _, rfl⟩ | ⟨u, d, hu, rfl⟩ | ⟨f, rfl⟩
  · exact absurd hn (hi n)
  · exact ⟨rfl, rfl, rfl, rfl⟩
  · exact ⟨hu.counter_eq, rfl, rfl, rfl⟩
  · exact ⟨rfl, rfl, rfl, rfl⟩

/-- ADVANCE writes no byte but LY and STAT. -/
theorem advance_readDirectly_other (hm : s.mem.wf = true) (n : Nat) {a : Addr} (hly : a ≠ regAddr .ly)
    (hstat : a ≠ regAddr .stat) : (advance n s).readDirectly a = s.readDirectly a := by
  obtain ⟨hwf, hother⟩ := countdown_mem hm n
  exact (readDirectly_writeDirectly_other hwf hstat _).trans (hother a hly)

/-- Settles O14: a byte that changed is LY or STAT after ADVANCE, or the byte BUSW addressed; the other cases of
`exec_cases` keep memory. -/
theorem memoryWritersAreAdvanceAndBusw : Obligations.MemoryWritersAreAdvanceAndBusw := by
  intro i s t a hm h hne
  rcases exec_cases h with ⟨n, hn, rfl⟩ | ⟨b, v, hi, rfl⟩ | ⟨u, d, hu, rfl⟩ | ⟨f, rfl⟩
  · refine .inl ⟨⟨n, hn⟩, ?_⟩
    by_contra! hregs
    exact hne (advance_readDirectly_other hm n hregs.1 hregs.2)
  · by_cases hab : a = b
    · exact .inr ⟨v, hab ▸ hi⟩
    · exact absurd (readDirectly_writeDirectly_other hm hab v) hne
  · exact absurd (congrArg (·.read a.toNat) hu.mem_eq) hne
  · exact absurd rfl hne

theorem step_of_port_cons {w : Word} {rest : List Word} (h : s.port = w :: rest) :
    step s = runWord w { s with port := rest } := by
  simp [step, State.takeWord, h]

/-- A word that decodes runs as its command. -/
theorem runWord_of_decode {w : Word} {i : Instr} (h : decode w = .ok i) (s : State) : runWord w s = exec i s := by
  simp [runWord, h]

/-- Settles O5: the step runs the head word with the tail left in the port, and the word runs as its command. -/
theorem stepRunsTheDecodedCommand : Obligations.StepRunsTheDecodedCommand := by
  intro s w rest i hp hw
  rw [step_of_port_cons hp, runWord_of_decode hw]

end Sys2Proof.Machine
end

section
/-! The registers as bytes of memory (spec/10_state.md rule R33), and STAT after ADVANCE (rules R48, R49). -/

namespace Sys2Proof.Machine

variable {s : State}

/-- No register of the block lies at 0xFF46. -/
theorem regAddr_ne_FF46 (r : Reg) : (0xFF46 : Addr) ≠ regAddr r := by cases r <;> decide

/-- Settles O22: the addresses are `regAddr`'s, and a write to one of them changes that byte alone. -/
theorem registersAreSeparateBytes : Obligations.RegistersAreSeparateBytes := by
  intro s
  refine ⟨⟨rfl, rfl, rfl, rfl, rfl, rfl, rfl, rfl, rfl, rfl, rfl⟩, fun hm r r' v => ⟨?read, ?bytes, ?ff46⟩⟩
  case read =>
    split
    · next h => rw [h, reg_writeReg_same hm]
    · next h => exact reg_writeReg_other hm h v
  case bytes => exact fun a ha => readDirectly_writeDirectly_other hm ha v
  case ff46 => exact readDirectly_writeDirectly_other hm (regAddr_ne_FF46 r) v

theorem advance_displayEnabled (hm : s.mem.wf = true) (n : Nat) : (advance n s).displayEnabled = s.displayEnabled := by
  rw [State.displayEnabled, advance_reg hm n (by decide) (by decide), State.displayEnabled]

/-- Settles O55: ADVANCE writes STAT back from the LY and the counter it leaves, and keeps LCDC and LYC. -/
theorem advanceBringsStatUpToDate : Obligations.AdvanceBringsStatUpToDate := by
  intro s t n hm h
  obtain rfl : advance n s = t := Host.Outcome.next.inj h
  constructor
  case mode =>
    rw [advance_stat hm, statWriteBack_mode, State.ppuState, advance_displayEnabled hm, modeOf]
  case lycMatch =>
    rw [statMatch, advance_stat hm, statWriteBack_match, advance_reg hm n (r := .lyc) (by decide) (by decide)]

end Sys2Proof.Machine
end

section
/-! RENDER_LINE (spec/10_state.md rule R35; spec/40_sequencer.md rule R145): its body by the two LCDC bits, and the same work
as the renderers' own commands. -/

namespace Sys2Proof.Machine

variable {s : State} (ly : Fin 144)

theorem renderLineBody_both (h0 : testBit (s.reg .lcdc) 0 = true) (h1 : testBit (s.reg .lcdc) 1 = true) :
    renderLineBody ly s = renderObj ly (renderBg ly s) := by simp [renderLineBody, h0, h1]

theorem renderLineBody_bg (h0 : testBit (s.reg .lcdc) 0 = true) (h1 : testBit (s.reg .lcdc) 1 = false) :
    renderLineBody ly s = renderBg ly s := by simp [renderLineBody, h0, h1]

theorem renderLineBody_obj (h0 : testBit (s.reg .lcdc) 0 = false) (h1 : testBit (s.reg .lcdc) 1 = true) :
    renderLineBody ly s = renderObj ly s := by simp [renderLineBody, h0, h1]

theorem renderLineBody_none (h0 : testBit (s.reg .lcdc) 0 = false) (h1 : testBit (s.reg .lcdc) 1 = false) :
    renderLineBody ly s = s := by simp [renderLineBody, h0, h1]

variable {ly}

theorem exec_renderLine_of_row (h : (s.reg .ly).toNat = ly) :
    exec .renderLine s = .next ((renderLineBody ly s).respond Response.ok) := renderCurrentLine_of_row h _

theorem exec_renderBg_of_row (h : (s.reg .ly).toNat = ly) :
    exec .renderBg s = .next ((renderBg ly s).respond Response.ok) := renderCurrentLine_of_row h _

theorem exec_renderObj_of_row (h : (s.reg .ly).toNat = ly) :
    exec .renderObj s = .next ((renderObj ly s).respond Response.ok) := renderCurrentLine_of_row h _

/-- RENDER_BG and then RENDER_OBJ: the sprites' command finds LY as the background's did and does not read its response. -/
theorem runCommands_renderBg_renderObj (h : (s.reg .ly).toNat = ly) :
    runCommands [.renderBg, .renderObj] s = some ((renderObj ly (renderBg ly s)).respond Response.ok) := by
  have hly : (((renderBg ly s).respond Response.ok).reg .ly).toNat = ly := h
  simp only [runCommands, exec_renderBg_of_row h, exec_renderObj_of_row hly]
  rfl

/-- A state that differs in its frame buffer alone, with a new response. -/
theorem SameButFb.respond_eq {u : State} (h : SameButFb s u) (r : Response) :
    u.respond r = { s with fb := (u.respond r).fb, resp := r } := by
  rw [h]
  rfl

/-- Settles O45: the command is `renderLineBody` on row LY, and each pair of LCDC bits selects its renderers. -/
theorem renderLineRunsTheEnabledRenderers : Obligations.RenderLineRunsTheEnabledRenderers := by
  intro s hl
  obtain ⟨ly, hly⟩ : ∃ ly : Fin 144, (s.reg .ly).toNat = ly := ⟨⟨_, hl⟩, rfl⟩
  refine ⟨_, exec_renderLine_of_row hly, (renderLineBody_sameButFb ly s).respond_eq _, fun r hr => ?rows,
    fun h0 h1 => ?both, fun h0 h1 => ?bg, fun h0 h1 => ?obj, fun h0 h1 => ?none⟩
  case rows => exact renderLineBody_row_other (fun e => hr (by rw [e, hly])) s
  case both => rw [runCommands_renderBg_renderObj hly, renderLineBody_both ly h0 h1]
  case bg => rw [exec_renderBg_of_row hly, renderLineBody_bg ly h0 h1]
  case obj => rw [exec_renderObj_of_row hly, renderLineBody_obj ly h0 h1]
  case none => rw [renderLineBody_none ly h0 h1, State.respond_fb]

end Sys2Proof.Machine
end

section
/-! Memory as an array of bytes (spec/20_memory.md rules R71 to R73; spec/44_host_port.md rules R235, R238): the canonical
form is determined by what it reads as, a run of BUSW commands leaves the last byte written, and a CPU write is a BUSW. -/

namespace Sys2Proof.Machine

variable {s : State} {m m' : Memory} {lo lo' : Nat}

theorem Memory.wfFrom_cons_iff {k : Nat} {b : Byte} :
    Memory.wfFrom lo ((k, b) :: m) = true ↔
      lo ≤ k ∧ k < 65536 ∧ b ≠ unlistedByte ∧ Memory.wfFrom (k + 1) m = true := by
  simp [Memory.wfFrom, and_assoc]

@[simp] theorem Memory.read_nil (a : Nat) : Memory.read [] a = unlistedByte := rfl

@[simp] theorem Memory.read_head (k : Nat) (b : Byte) (m : Memory) : Memory.read ((k, b) :: m) k = b := if_pos rfl

theorem Memory.read_tail {k a : Nat} (h : a ≠ k) (b : Byte) (m : Memory) :
    Memory.read ((k, b) :: m) a = Memory.read m a := if_neg h

/-- A canonical memory that reads the same at the address of another's first cell begins no higher: below its own first
cell it would read as unlisted, and no listed cell does. -/
theorem Memory.le_head_of_read_eq {k k' : Nat} {b b' : Byte} (hm : Memory.wfFrom lo ((k, b) :: m) = true)
    (hm' : Memory.wfFrom lo' ((k', b') :: m') = true)
    (h : Memory.read ((k, b) :: m) k = Memory.read ((k', b') :: m') k) : k' ≤ k := by
  obtain ⟨_, _, hb, _⟩ := Memory.wfFrom_cons_iff.mp hm
  obtain ⟨_, hk', hb', ht'⟩ := Memory.wfFrom_cons_iff.mp hm'
  by_contra! hlt
  have hwf : Memory.wfFrom k' ((k', b') :: m') = true := Memory.wfFrom_cons_iff.mpr ⟨le_refl _, hk', hb', ht'⟩
  rw [Memory.read_head, Memory.read_below hwf hlt] at h
  exact hb h

/-- A memory that lists a cell does not read as the empty one. -/
theorem Memory.read_cons_ne_nil {k : Nat} {b : Byte} (hm : Memory.wfFrom lo ((k, b) :: m) = true) :
    ∃ a, a < 65536 ∧ Memory.read ((k, b) :: m) a ≠ Memory.read [] a := by
  obtain ⟨_, hk, hb, _⟩ := Memory.wfFrom_cons_iff.mp hm
  exact ⟨k, hk, by rwa [Memory.read_head, Memory.read_nil]⟩

/-- Canonical memories that read alike are equal: their first cells agree, and so do the rests, which both read as unlisted
at the first cells' address. -/
theorem Memory.eq_of_read_eq (hm : Memory.wfFrom lo m = true) (hm' : Memory.wfFrom lo m' = true)
    (h : ∀ a, a < 65536 → m.read a = m'.read a) : m = m' := by
  induction m generalizing lo m' with
  | nil =>
    cases m' with
    | nil => rfl
    | cons c' m' =>
      obtain ⟨a, ha, hne⟩ := Memory.read_cons_ne_nil hm'
      exact absurd (h a ha).symm hne
  | cons c m ih =>
    cases m' with
    | nil =>
      obtain ⟨a, ha, hne⟩ := Memory.read_cons_ne_nil hm
      exact absurd (h a ha) hne
    | cons c' m' =>
      obtain ⟨k, b⟩ := c
      obtain ⟨k', b'⟩ := c'
      obtain ⟨_, hk, _, ht⟩ := Memory.wfFrom_cons_iff.mp hm
      obtain ⟨_, hk', _, ht'⟩ := Memory.wfFrom_cons_iff.mp hm'
      obtain rfl : k = k' :=
        Nat.le_antisymm (Memory.le_head_of_read_eq hm' hm (h k' hk').symm) (Memory.le_head_of_read_eq hm hm' (h k hk))
      obtain rfl : b = b' := by simpa using h k hk
      have htail : ∀ a, a < 65536 → Memory.read m a = Memory.read m' a := by
        intro a ha
        by_cases hak : a = k
        · rw [Memory.read_below ht (by omega), Memory.read_below ht' (by omega)]
        · simpa only [Memory.read_tail hak] using h a ha
      rw [ih ht ht' htail]

/-- Settles O21: every address below 65536 is a 16-bit address, so the memories read alike everywhere. -/
theorem memoriesThatReadAlikeAreEqual : Obligations.MemoriesThatReadAlikeAreEqual := by
  intro m m' hm hm' h
  refine Memory.eq_of_read_eq hm hm' fun a ha => ?_
  simpa [Nat.mod_eq_of_lt ha] using h (BitVec.ofNat 16 a)

theorem exec_busw (a : Addr) (v : Byte) (s : State) :
    exec (.busw a v) s = .next ((s.writeDirectly a v).respond Response.ok) := rfl

/-- A byte after one write, in the form of the statement about runs: a search in the list of that write alone. -/
theorem readDirectly_writeDirectly_eq_find (hm : s.mem.wf = true) (w : Addr × Byte) (a : Addr) :
    (s.writeDirectly w.1 w.2).readDirectly a =
      (([w].find? fun p => p.1 == a).map Prod.snd).getD (s.readDirectly a) := by
  by_cases h : w.1 = a
  · simp [← h, readDirectly_writeDirectly_same hm]
  · simp [h, readDirectly_writeDirectly_other hm (Ne.symm h)]

/-- A run of BUSW commands completes, and a byte then reads as the last one written there, or as before the run. -/
theorem runCommands_busw (hm : s.mem.wf = true) (ws : List (Addr × Byte)) (a : Addr) :
    ∃ t, runCommands (ws.map fun p => .busw p.1 p.2) s = some t ∧
      t.readDirectly a = ((ws.reverse.find? fun p => p.1 == a).map Prod.snd).getD (s.readDirectly a) := by
  induction ws generalizing s with
  | nil => exact ⟨s, rfl, rfl⟩
  | cons w ws ih =>
    obtain ⟨t, hrun, hread⟩ := ih (s := (s.writeDirectly w.1 w.2).respond Response.ok) (writeDirectly_wf hm w.1 w.2)
    refine ⟨t, hrun, ?_⟩
    have hfirst : ((s.writeDirectly w.1 w.2).respond Response.ok).readDirectly a = _ :=
      readDirectly_writeDirectly_eq_find hm w a
    rw [hread, hfirst, List.reverse_cons, List.find?_append]
    cases ws.reverse.find? fun p => p.1 == a <;> rfl

/-- Settles O20: reset leaves `InitMem` in memory, and the run of writes starts from it. -/
theorem memoryReturnsTheLastByteWritten : Obligations.MemoryReturnsTheLastByteWritten :=
  fun cfg image ws a hm => runCommands_busw (s := State.resetWith cfg image) hm ws a

/-- Settles O24: the write goes through the direct port as BUSW's does, and BUSW's response is no part of memory. -/
theorem cpuWriteActsAsBusw : Obligations.CpuWriteActsAsBusw := by
  intro p w s a v
  refine ⟨fun hlet => ⟨_, exec_busw _ _ s, ?_⟩, fun hblocked => ?_⟩
  · rw [State.cpuWrite, if_pos hlet]
    rfl
  · rw [State.cpuWrite, if_neg (by simp [hblocked])]

end Sys2Proof.Machine
end

section
/-! ADVANCE as a command (spec/20_memory.md rule R74; spec/60_exceptions.md rule R260): it completes, and what it keeps. -/

namespace Sys2Proof.Machine

theorem exec_advance (n : Nat) (s : State) : exec (.advance n) s = .next (advance n s) := rfl

/-- ADVANCE touches neither the port, nor the record of faults, nor the parameters. -/
theorem advance_port_faults_cfg (n : Nat) (s : State) :
    (advance n s).port = s.port ∧ (advance n s).faults = s.faults ∧ (advance n s).cfg = s.cfg :=
  countdown_port_faults_cfg n s

/-- Settles O47: STAT and LY are the only bytes written, and the response's error bit and data are 0. -/
theorem advanceCompletesAndKeepsTheRest : Obligations.AdvanceCompletesAndKeepsTheRest := by
  intro s n hm
  obtain ⟨hport, hfaults, hcfg⟩ := advance_port_faults_cfg n s
  exact ⟨_, exec_advance n s, rfl, rfl, hport, hfaults, hcfg, fun _ => advance_readDirectly_other hm n⟩

end Sys2Proof.Machine
end

section
/-! The addresses the renderers form (spec/20_memory.md rules R75, R76, R88), as bounds that hold for any registers and any
memory. -/

namespace Sys2Proof.Machine

/-- A tile map has 32 rows of 32 entries, and the two maps fill 0x9800 to 0x9FFF (R76). -/
theorem mapAddr_bounds (select : Bool) {mr mc : Nat} (hr : mr < 32) (hc : mc < 32) :
    0x9800 ≤ mapAddr select mr mc ∧ mapAddr select mr mc ≤ 0x9FFF := by
  unfold mapAddr mapBase
  split <;> omega

/-- Both addressing modes reach tiles in 0x8000 to 0x97FF (R75). -/
theorem bgTileAddr_bounds (direct : Bool) (idx : Byte) :
    0x8000 ≤ bgTileAddr direct idx ∧ bgTileAddr direct idx + 15 ≤ 0x97FF := by
  have hnat := idx.isLt
  have hlo := BitVec.le_two_mul_toInt (x := idx)
  have hhi := BitVec.two_mul_toInt_lt (x := idx)
  unfold bgTileAddr tileDataUnsigned tileDataSigned
  split <;> omega

theorem objRowAddr_bounds (tile : Byte) {row : Nat} (h : row < 16) :
    0x8000 ≤ objRowAddr tile.toNat row ∧ objRowAddr tile.toNat row + 1 ≤ 0x900F := by
  have := tile.isLt
  simp only [objRowAddr, tileDataUnsigned]
  omega

theorem BgSource.mapAddr_bounds {c : BgSource} (h : c.py < 256 ∧ c.px < 256) :
    0x9800 ≤ c.mapAddr ∧ c.mapAddr ≤ 0x9FFF :=
  Machine.mapAddr_bounds c.mapSelect (by omega) (by omega)

/-- A tile row's two bytes lie in its tile's sixteen. -/
theorem BgSource.rowAddr_bounds (c : BgSource) (r : BgRegs) (m : Memory) :
    0x8000 ≤ c.rowAddr r m ∧ c.rowAddr r m + 1 ≤ 0x97FF := by
  have := bgTileAddr_bounds (testBit r.lcdc 4) (m.read c.mapAddr)
  unfold BgSource.rowAddr
  omega

/-- A sprite on a line it covers shows one of its rows, mirrored or not. -/
theorem oamEntry_rowOn_lt (m : Memory) (i ly : Nat) {h : Nat} (hc : (oamEntry m i).covers h ly = true) :
    (oamEntry m i).rowOn h ly < h := by
  rw [oamEntry_covers_iff] at hc
  rw [oamEntry_rowOn]
  split <;> omega

theorem spriteRowAddr_bounds (m : Memory) (i ly : Nat)
    (hc : (oamEntry m i).covers (spriteHeight (m.reg .lcdc)) ly = true) :
    0x8000 ≤ objRowAddr (oamEntry m i).tile ((oamEntry m i).rowOn (spriteHeight (m.reg .lcdc)) ly) ∧
      objRowAddr (oamEntry m i).tile ((oamEntry m i).rowOn (spriteHeight (m.reg .lcdc)) ly) + 1 ≤ 0x900F := by
  have hrow := oamEntry_rowOn_lt m i ly hc
  have hheight := spriteHeight_cases (m.reg .lcdc)
  exact objRowAddr_bounds (m.read (oamBase + 4 * i + 2)) (by omega)

theorem oamEntry_addr_bounds {i : Nat} (h : i < oamEntries) :
    0xFE00 ≤ oamBase + 4 * i ∧ oamBase + 4 * i + 3 ≤ 0xFE9F := by
  simp only [oamEntries, oamBase] at *
  omega

/-- Settles O35: the bounds of each address, with the source's coordinates below 256. -/
theorem rendererAddressesStayInTheMap : Obligations.RendererAddressesStayInTheMap := by
  refine ⟨fun m ly sx => ?background, fun m ly i hi => ⟨oamEntry_addr_bounds hi, spriteRowAddr_bounds m i ly⟩⟩
  case background =>
    obtain ⟨hlo, hhi⟩ := BgSource.mapAddr_bounds ((bgRegs m).source_lt ly sx)
    exact ⟨hlo, hhi, BgSource.rowAddr_bounds _ _ m⟩

end Sys2Proof.Machine
end

section
/-! RENDER_BG as a function of what it reads (spec/20_memory.md rules R74 to R76, R81): it draws over the row whatever the
row held, from its registers and the bytes of tile data and tile maps. -/

namespace Sys2Proof.Machine

variable {s : State} {m m' : Memory}

theorem Frame.setRow_setRow (fb : Frame) (ly : Fin 144) (row row' : Row) :
    (fb.setRow ly row).setRow ly row' = fb.setRow ly row' := by
  simp [Frame.setRow]

/-- The second drawing reads the memory of the first and overwrites its row. -/
theorem renderBg_respond_renderBg (ly : Fin 144) (s : State) (r : Response) :
    (renderBg ly ((renderBg ly s).respond r)).respond r = (renderBg ly s).respond r := by
  simp [renderBg, Frame.setRow_setRow, State.setFb, State.respond]

theorem eq_of_exec_renderBg {t : State} {ly : Fin 144} (hly : (s.reg .ly).toNat = ly)
    (h : exec .renderBg s = .next t) : t = (renderBg ly s).respond Response.ok :=
  (Host.Outcome.next.inj ((exec_renderBg_of_row hly).symm.trans h)).symm

/-- Settles O32: the first run leaves LY as it was, so the second draws the same row again. -/
theorem renderBgTwiceIsRenderBgOnce : Obligations.RenderBgTwiceIsRenderBgOnce := by
  intro s t hl h
  obtain ⟨ly, hly⟩ : ∃ ly : Fin 144, (s.reg .ly).toNat = ly := ⟨⟨_, hl⟩, rfl⟩
  obtain rfl := eq_of_exec_renderBg hly h
  have hly' : (((renderBg ly s).respond Response.ok).reg .ly).toNat = ly := hly
  rw [exec_renderBg_of_row hly', renderBg_respond_renderBg]

theorem tileRowAt_congr {a : Nat} (h0 : m.read a = m'.read a) (h1 : m.read (a + 1) = m'.read (a + 1)) :
    tileRowAt m a = tileRowAt m' a := by
  rw [tileRowAt, tileRowAt, h0, h1]

/-- A background pixel depends on the registers and on tile data and tile maps alone. -/
theorem bgPixel_congr (hv : ∀ a, 0x8000 ≤ a → a ≤ 0x9FFF → m.read a = m'.read a) (r : BgRegs) (ly sx : Nat) :
    bgPixel r m ly sx = bgPixel r m' ly sx := by
  have hmap : (r.source ly sx).rowAddr r m = (r.source ly sx).rowAddr r m' := by
    obtain ⟨hlo, hhi⟩ := BgSource.mapAddr_bounds (r.source_lt ly sx)
    rw [BgSource.rowAddr, BgSource.rowAddr, hv _ (by omega) hhi]
  have htile : tileRowAt m ((r.source ly sx).rowAddr r m') = tileRowAt m' ((r.source ly sx).rowAddr r m') := by
    obtain ⟨hlo, hhi⟩ := (r.source ly sx).rowAddr_bounds r m'
    exact tileRowAt_congr (hv _ hlo (by omega)) (hv _ (by omega) (by omega))
  simp only [bgPixel, hmap, htile]

theorem bgRow_congr (hregs : bgRegs m = bgRegs m') (hv : ∀ a, 0x8000 ≤ a → a ≤ 0x9FFF → m.read a = m'.read a)
    (ly : Fin 144) : bgRow m ly = bgRow m' ly := by
  simp only [bgRow, hregs, bgPixel_congr hv]

theorem bgRegs_congr
    (h : ∀ r, r ∈ [Reg.lcdc, Reg.ly, Reg.scy, Reg.scx, Reg.wy, Reg.wx, Reg.bgp] → m.reg r = m'.reg r) :
    bgRegs m = bgRegs m' := by
  simp only [bgRegs, h .lcdc (by simp), h .scy (by simp), h .scx (by simp), h .wy (by simp), h .wx (by simp),
    h .bgp (by simp)]

theorem renderBg_row_same (ly : Fin 144) (s : State) : (renderBg ly s).fb.row ly = bgRow s.mem ly :=
  Frame.row_setRow_same s.fb ly _

/-- Settles O33: both states draw row LY, and the row drawn is `bgRow` of memory. -/
theorem renderBgReadsOnlyItsBytes : Obligations.RenderBgReadsOnlyItsBytes := by
  intro s s' t t' ly hly hregs hv h h'
  have hly' : (s'.reg .ly).toNat = ly := by rw [← hregs .ly (by simp), hly]
  rw [eq_of_exec_renderBg hly h, eq_of_exec_renderBg hly' h', State.respond_fb, State.respond_fb, renderBg_row_same,
    renderBg_row_same]
  exact bgRow_congr (bgRegs_congr hregs) hv ly

end Sys2Proof.Machine
end

section
/-! RENDER_OBJ as a function of what it reads (spec/20_memory.md rules R74, R75): its registers, OAM, and the tile rows of the
sprites that cover the line. -/

namespace Sys2Proof.Machine

variable {s s' t t' : State} {m m' : Memory}

/-- An entry depends on the bytes of OAM alone. -/
theorem oamEntry_congr (ho : ∀ a, 0xFE00 ≤ a → a ≤ 0xFE9F → m.read a = m'.read a) {i : Nat} (hi : i < oamEntries) :
    oamEntry m i = oamEntry m' i := by
  obtain ⟨hlo, hhi⟩ := oamEntry_addr_bounds hi
  have hbyte : ∀ k, k ≤ 3 → m.read (oamBase + 4 * i + k) = m'.read (oamBase + 4 * i + k) :=
    fun k hk => ho _ (by omega) (by omega)
  have h0 : m.read (oamBase + 4 * i) = m'.read (oamBase + 4 * i) := hbyte 0 (by omega)
  simp only [oamEntry, h0, hbyte 1 (by omega), hbyte 2 (by omega), hbyte 3 (by omega)]

/-- What a covering entry shows depends on the entry, LCDC, the palettes and the bytes sprite rows lie in. -/
theorem spriteLine_congr {i ly : Nat} (he : oamEntry m i = oamEntry m' i) (hl : m.reg .lcdc = m'.reg .lcdc)
    (h0 : m.reg .obp0 = m'.reg .obp0) (h1 : m.reg .obp1 = m'.reg .obp1)
    (hv : ∀ a, 0x8000 ≤ a → a ≤ 0x900F → m.read a = m'.read a)
    (hc : (oamEntry m' i).covers (spriteHeight (m'.reg .lcdc)) ly = true) :
    spriteLine m ly i = spriteLine m' ly i := by
  obtain ⟨hlo, hhi⟩ := spriteRowAddr_bounds m' i ly hc
  have htile := tileRowAt_congr (hv _ hlo (by omega)) (hv _ (by omega) hhi)
  simp only [spriteLine, he, hl, h0, h1, htile]

theorem drawSprite_congr (cfg : Config) {i : Nat} (ly : Nat) (row : Row) (he : oamEntry m i = oamEntry m' i)
    (hl : m.reg .lcdc = m'.reg .lcdc) (h0 : m.reg .obp0 = m'.reg .obp0) (h1 : m.reg .obp1 = m'.reg .obp1)
    (hv : ∀ a, 0x8000 ≤ a → a ≤ 0x900F → m.read a = m'.read a) :
    drawSprite cfg m ly row i = drawSprite cfg m' ly row i := by
  simp only [drawSprite, he, hl]
  split
  · next hc => rw [spriteLine_congr he hl h0 h1 hv hc]
  · rfl

theorem objRow_congr (hl : m.reg .lcdc = m'.reg .lcdc) (h0 : m.reg .obp0 = m'.reg .obp0)
    (h1 : m.reg .obp1 = m'.reg .obp1) (hv : ∀ a, 0x8000 ≤ a → a ≤ 0x900F → m.read a = m'.read a)
    (ho : ∀ a, 0xFE00 ≤ a → a ≤ 0xFE9F → m.read a = m'.read a) (cfg : Config) (ly : Nat) (row : Row) :
    objRow cfg m ly row = objRow cfg m' ly row :=
  List.foldl_ext _ _ row fun row _ hi =>
    drawSprite_congr cfg ly row (oamEntry_congr ho (List.mem_range.mp hi)) hl h0 h1 hv

/-- A renderer's command leaves the same frame in two states with the same LY and frame where the renderer draws the
same; past the last row neither draws. -/
theorem renderCurrentLine_fb_congr {render : Fin 144 → State → State} (hly : s.reg .ly = s'.reg .ly) (hfb : s.fb = s'.fb)
    (hr : ∀ ly, (render ly s).fb = (render ly s').fb) (h : renderCurrentLine render s = .next t)
    (h' : renderCurrentLine render s' = .next t') : t.fb = t'.fb := by
  by_cases hl : (s.reg .ly).toNat < 144
  · obtain ⟨ly, hrow⟩ : ∃ ly : Fin 144, (s.reg .ly).toNat = ly := ⟨⟨_, hl⟩, rfl⟩
    have hrow' : (s'.reg .ly).toNat = ly := hly ▸ hrow
    rw [renderCurrentLine_of_row hrow] at h
    rw [renderCurrentLine_of_row hrow'] at h'
    rw [← Host.Outcome.next.inj h, ← Host.Outcome.next.inj h']
    exact hr ly
  · have hl' : ¬ (s'.reg .ly).toNat < 144 := hly ▸ hl
    rw [renderCurrentLine, dif_neg hl] at h
    rw [renderCurrentLine, dif_neg hl'] at h'
    rw [← Host.Outcome.next.inj h, ← Host.Outcome.next.inj h']
    exact hfb

/-- Settles O44: the row drawn is `objRow` of the parameters, memory and the frame's row. -/
theorem renderObjReadsOnlyItsBytes : Obligations.RenderObjReadsOnlyItsBytes := by
  intro s s' t t' hregs hv ho hcfg hfb h h'
  refine renderCurrentLine_fb_congr (hregs .ly (by simp)) hfb (fun ly => ?_) h h'
  have hrow := objRow_congr (hregs .lcdc (by simp)) (hregs .obp0 (by simp)) (hregs .obp1 (by simp)) hv ho
  simp only [renderObj, State.setFb_fb, hrow, hcfg, hfb]

end Sys2Proof.Machine
end

section
/-! The decoder and the encoder (spec/30_encoding.md rules R96 to R98): a word decodes to a well-formed command exactly when
it is, as a number, the command's word value, so decoding and encoding are inverse to each other. -/

namespace Sys2Proof

variable {w : Word} {i : Instr}

theorem whenZero_eq_ok_iff {reserved : Nat} {j : Instr} :
    whenZero reserved j = .ok i ↔ reserved = 0 ∧ j = i := by
  unfold whenZero
  split <;> simp [*]

theorem extractLsb'_eq_iff {lo n : Nat} {x : BitVec n} :
    w.extractLsb' lo n = x ↔ w.toNat / 2 ^ lo % 2 ^ n = x.toNat := by
  rw [← BitVec.toNat_inj, BitVec.extractLsb'_toNat, Nat.shiftRight_eq_div_pow]

/-- The operation code of a command (R96). -/
def Instr.op : Instr → Nat
  | .advance _ => 0
  | .renderLine => 1
  | .renderBg => 2
  | .renderObj => 3
  | .palLookup _ _ => 4
  | .fbRead _ _ => 5
  | .fbClear => 6
  | .busw _ _ => 7
  | .busr _ => 8

/-- Well-formed operands leave the operation code in bits 31-28. -/
theorem bits_op_of_wordValue (hi : i.wf = true) (hw : w.toNat = wordValue i) : bits w 31 28 = i.op := by
  rw [bits_eq, hw]
  cases i
  case renderLine | renderBg | renderObj | fbClear => rfl
  all_goals
    simp only [Instr.wf, Bool.and_eq_true, decide_eq_true_eq] at hi
    simp only [wordValue, Instr.op]
    omega

/-- The operation code selects the command's own arm; there the reserved field is zero and each operand's field is the
operand, by division with remainder. -/
theorem decode_of_wordValue (hi : i.wf = true) (hw : w.toNat = wordValue i) : decode w = .ok i := by
  have hop := bits_op_of_wordValue hi hw
  cases i
  all_goals
    simp only [Instr.wf, Bool.and_eq_true, decide_eq_true_eq] at hi
    simp only [wordValue] at hw
    simp only [Instr.op] at hop
    simp only [decode, hop, whenZero_eq_ok_iff, Instr.advance.injEq, Instr.palLookup.injEq, Instr.fbRead.injEq,
      Instr.busw.injEq, Instr.busr.injEq, and_true, extractLsb'_eq_iff, bits_eq]
    omega

/-- In each arm the operation code, the zero reserved field and the operands' fields make up the whole word. -/
theorem wordValue_of_decode (h : decode w = .ok i) : i.wf = true ∧ w.toNat = wordValue i := by
  unfold decode at h
  split at h
  case h_10 => cases h
  all_goals
    next hop =>
    obtain ⟨hzero, rfl⟩ := whenZero_eq_ok_iff.mp h
    simp only [bits_eq] at hop hzero
    simp [Instr.wf, wordValue, bits_eq]
    omega

/-- Settles O1: the encoding of a well-formed command is its word value as a number, and that decodes to the command. -/
theorem decodeOfEncodeIsTheCommand : Obligations.DecodeOfEncodeIsTheCommand :=
  fun _ hi => decode_of_wordValue hi (encode_toNat hi)

/-- Settles O2: the word and the encoding of its command are the same number. -/
theorem encodeOfDecodeIsTheWord : Obligations.EncodeOfDecodeIsTheWord := by
  intro w i h
  obtain ⟨hi, hw⟩ := wordValue_of_decode h
  exact ⟨hi, BitVec.eq_of_toNat_eq ((encode_toNat hi).trans hw.symm)⟩

/-- Settles O4: each word is the word value of the command beside it. -/
theorem sampleWordsDecodeAsWritten : Obligations.SampleWordsDecodeAsWritten := by
  unfold Obligations.SampleWordsDecodeAsWritten
  and_intros <;> exact decode_of_wordValue rfl rfl

end Sys2Proof
end

section
/-! The opcode table (spec/30_encoding.md rules R96, R98, R99; opcode_table.json): a word matches a row exactly when it is the
word of one of the row's commands, and the operation codes tell the rows apart. -/

namespace Sys2Proof

variable {w : Word} {i : Instr} {r r' : OpcodeRow}

/-- A command's word has the fixed bits of the command's row, and the row stands in the table. -/
theorem fixedBits (i : Instr) : Laws.FixedBits.Statement i := by
  cases i with
  | advance cycles => exact Laws.FixedBits.advance cycles
  | renderLine => exact Laws.FixedBits.renderLine
  | renderBg => exact Laws.FixedBits.renderBg
  | renderObj => exact Laws.FixedBits.renderObj
  | palLookup ci pal => exact Laws.FixedBits.palLookup ci pal
  | fbRead row col => exact Laws.FixedBits.fbRead row col
  | fbClear => exact Laws.FixedBits.fbClear
  | busw addr data => exact Laws.FixedBits.busw addr data
  | busr addr => exact Laws.FixedBits.busr addr

theorem row_of_decode (h : decode w = .ok i) : i.row ∈ opcodeTable ∧ i.row.matches w = true := by
  obtain ⟨_, rfl⟩ := encodeOfDecodeIsTheWord w i h
  obtain ⟨hmatch, hmem⟩ := fixedBits i
  exact ⟨hmem, hmatch⟩

theorem matches_iff : r.matches w = true ↔ w &&& r.mask = r.value := by simp [OpcodeRow.matches]

/-- A matching word is the row's value plus the bits the row leaves free. -/
theorem toNat_of_matches (h : r.matches w = true) : w.toNat = r.value.toNat + (w &&& ~~~r.mask).toNat := by
  have hdisj : (w &&& r.mask) &&& (w &&& ~~~r.mask) = 0#32 := by
    apply BitVec.eq_of_getLsbD_eq
    intro j _
    simp only [BitVec.getLsbD_and, BitVec.getLsbD_not, BitVec.getLsbD_zero]
    cases r.mask.getLsbD j <;> simp
  have hsplit : (w &&& r.mask) ||| (w &&& ~~~r.mask) = w := by
    rw [← BitVec.and_or_distrib_left, BitVec.or_not_self, BitVec.and_allOnes]
  rw [← matches_iff.mp h, ← BitVec.toNat_add_of_and_eq_zero hdisj, BitVec.add_eq_or_of_and_eq_zero _ _ hdisj, hsplit]

/-- A matching word is the word value of the row's command whose operands are the word's free bits. -/
theorem exists_wordValue_of_matches (hr : r ∈ opcodeTable) (h : r.matches w = true) :
    ∃ i : Instr, i.wf = true ∧ w.toNat = wordValue i := by
  have hw := toNat_of_matches h
  have hfree : (w &&& ~~~r.mask).toNat ≤ (~~~r.mask).toNat := Nat.and_le_right
  have hlow : (w &&& ~~~r.mask).toNat % 256 = w.toNat % 256 &&& (~~~r.mask).toNat % 256 := Nat.and_mod_two_pow (n := 8)
  generalize (w &&& ~~~r.mask).toNat = x at hw hfree hlow
  simp only [opcodeTable, List.mem_cons, List.not_mem_nil, or_false] at hr
  rcases hr with rfl | rfl | rfl | rfl | rfl | rfl | rfl | rfl | rfl <;>
  [ refine ⟨.advance x, ?_⟩;
    refine ⟨.renderLine, ?_⟩;
    refine ⟨.renderBg, ?_⟩;
    refine ⟨.renderObj, ?_⟩;
    refine ⟨.palLookup (x / 256) (BitVec.ofNat 8 x), ?_⟩;
    refine ⟨.fbRead (x / 256) (x % 256), ?_⟩;
    refine ⟨.fbClear, ?_⟩;
    refine ⟨.busw (BitVec.ofNat 16 (x / 256)) (BitVec.ofNat 8 x), ?_⟩;
    refine ⟨.busr (BitVec.ofNat 16 (x / 256)), ?_⟩ ]
  all_goals
    simp only [BitVec.reduceNot, BitVec.reduceToNat, Nat.reduceMod, Nat.and_zero] at hw hfree hlow
    simp [Instr.wf, wordValue]
    omega

/-- Every row fixes the operation code, and no two rows fix the same one. -/
theorem row_eq_of_op_eq : ∀ r ∈ opcodeTable, ∀ r' ∈ opcodeTable,
    r.value.extractLsb' 28 4 = r'.value.extractLsb' 28 4 → r = r' := by decide

theorem op_of_matches (hr : r ∈ opcodeTable) (h : r.matches w = true) :
    r.value.extractLsb' 28 4 = w.extractLsb' 28 4 := by
  have hmask : ∀ r ∈ opcodeTable, r.mask.extractLsb' 28 4 = BitVec.allOnes 4 := by decide
  rw [← matches_iff.mp h, BitVec.extractLsb'_and, hmask r hr, BitVec.and_allOnes]

theorem row_unique (hr : r ∈ opcodeTable) (hr' : r' ∈ opcodeTable) (h : r.matches w = true) (h' : r'.matches w = true) :
    r = r' :=
  row_eq_of_op_eq r hr r' hr' ((op_of_matches hr h).trans (op_of_matches hr' h').symm)

/-- Operation codes 0x9 to 0xF have no arm (R99). -/
theorem decode_of_op_ge (h : 9 ≤ bits w 31 28) : decode w = .error .reservedOp := by
  unfold decode
  split
  case h_10 => rfl
  all_goals omega

/-- Settles O3: a word that decodes matches its command's row, and no other row fixes the same operation code; a word that
matches a row is the word value of a command. -/
theorem decodesExactlyTheOpcodeTable : Obligations.DecodesExactlyTheOpcodeTable := by
  intro w
  refine ⟨⟨fun ⟨i, hi⟩ => ⟨i.row, row_of_decode hi⟩, fun ⟨r, hr, h⟩ => ?decodes⟩, fun i hi r hr h => ?unique,
    fun h => decode_of_op_ge h⟩
  case decodes =>
    obtain ⟨i, hi, hw⟩ := exists_wordValue_of_matches hr h
    exact ⟨i, decode_of_wordValue hi hw⟩
  case unique =>
    obtain ⟨hrow, hmatch⟩ := row_of_decode hi
    exact row_unique hr hrow h hmatch

end Sys2Proof
end

section
/-! The illegal word (spec/30_encoding.md rule R98), the expansion of FILL (rule R102), and PAL_LOOKUP's answer (rules R106,
R107). -/

namespace Sys2Proof.Machine

variable {s : State}

theorem runWord_of_decode_error {w : Word} {e : DecodeReject} (h : decode w = .error e) (s : State) :
    runWord w s = .next (s.recordFault .illegalCommand) := by
  rw [runWord, h, raiseFault_eq]

/-- Settles O6: the step takes the word from the port and records the fault. -/
theorem illegalWordIsRecordedAndAnswered : Obligations.IllegalWordIsRecordedAndAnswered := by
  intro s w rest e hp hw
  rw [step_of_port_cons hp, runWord_of_decode_error hw]
  rfl

/-- Writing one value to a list of addresses: a byte then reads as that value when its address is listed. -/
theorem runCommands_busw_const (hm : s.mem.wf = true) (as : List Addr) (v : Byte) (b : Addr) :
    ∃ t, runCommands (as.map fun a => .busw a v) s = some t ∧
      t.readDirectly b = if b ∈ as then v else s.readDirectly b := by
  obtain ⟨t, hrun, hread⟩ := runCommands_busw hm (as.map fun a => (a, v)) b
  refine ⟨t, by rw [← hrun, List.map_map]; rfl, ?_⟩
  rw [hread, ← List.map_reverse, List.find?_map]
  cases hfind : as.reverse.find? _ with
  | none =>
    have hmem : b ∉ as := fun hb => by simpa using List.find?_eq_none.mp hfind b (List.mem_reverse.mpr hb)
    rw [if_neg hmem]
    rfl
  | some a =>
    obtain rfl : a = b := by simpa using List.find?_some hfind
    rw [if_pos (List.mem_reverse.mp (List.mem_of_find?_eq_some hfind))]
    rfl

/-- The addresses FILL writes. -/
def fillAddrs (addr k : Nat) : List Addr := (List.range k).map fun i => BitVec.ofNat 16 (addr + i)

theorem expand_fill (addr k : Nat) (v : Byte) :
    (Pseudo.fill addr k v).expand = (fillAddrs addr k).map fun a => .busw a v := by
  rw [fillAddrs, List.map_map]
  rfl

/-- No address of a well-formed FILL wraps (R101). -/
theorem mem_fillAddrs_iff {addr k : Nat} (h : addr + k ≤ 65536) (b : Addr) :
    b ∈ fillAddrs addr k ↔ addr ≤ b.toNat ∧ b.toNat < addr + k := by
  simp only [fillAddrs, List.mem_map, List.mem_range]
  constructor
  · rintro ⟨i, hi, rfl⟩
    rw [BitVec.toNat_ofNat]
    omega
  · rintro ⟨hlo, hhi⟩
    refine ⟨b.toNat - addr, by omega, ?_⟩
    rw [Nat.add_sub_cancel' hlo, BitVec.ofNat_toNat, BitVec.setWidth_eq]

/-- Settles O26: the expansion is a run of BUSW of one value to the addresses from `addr` on. -/
theorem fillWritesItsBytes : Obligations.FillWritesItsBytes := by
  intro s addr k v b hm hwf
  have hrange : addr + k ≤ 65536 := of_decide_eq_true hwf
  obtain ⟨t, hrun, hread⟩ := runCommands_busw_const hm (fillAddrs addr k) v b
  refine ⟨t, by rw [expand_fill, hrun], ?_⟩
  simp only [hread, mem_fillAddrs_iff hrange]

/-- The colour by the palette's field, read as a number (R106). -/
theorem pal_of_field {ci : Nat} {p : Byte} (hci : ci ≤ 3) {k : BitVec 2} (h : p.toNat / 4 ^ ci % 4 = k.toNat) :
    pal ci p = shadeRgb k := by
  rw [pal, BitVec.eq_of_toNat_eq ((shade_toNat hci p).trans h)]

/-- Settles O27: the answer is the packed colour of the field's shade, and a response with data changes nothing else. -/
theorem palLookupReturnsTheShade : Obligations.PalLookupReturnsTheShade := by
  intro s ci p hci
  refine ⟨packRgb (pal ci p), rfl, fun h => ?white, fun h => ?lgray, fun h => ?dgray, fun h => ?black⟩
  case white => rw [pal_of_field hci (k := 0) h]; rfl
  case lgray => rw [pal_of_field hci (k := 1) h]; rfl
  case dgray => rw [pal_of_field hci (k := 2) h]; rfl
  case black => rw [pal_of_field hci (k := 3) h]; rfl

end Sys2Proof.Machine
end

section
/-! The cases of ADVANCE (spec/40_sequencer.md rules R132 to R138): what it leaves while steps 1 to 3 hold the line, and
what it leaves when they go to the next one. -/

namespace Sys2Proof.Machine

variable {s : State} {n : Nat}

theorem countdown_of_disabled (hd : s.displayEnabled = false) :
    countdown n s = ⟨s.setCounter lineBudget, false, false⟩ := by simp [countdown, hd]

theorem countdown_of_pos (hd : s.displayEnabled = true) (h : 0 < s.counter - n) :
    countdown n s = ⟨s.setCounter (s.counter - n), false, false⟩ := by
  rw [countdown, if_pos hd]
  exact if_neg (by omega)

theorem countdown_of_exhausted (hd : s.displayEnabled = true) (h : s.counter - n ≤ 0) :
    countdown n s = nextLine (s.setCounter lineBudget) := by
  rw [countdown, if_pos hd]
  exact if_pos h

@[simp] theorem advance_counter (n : Nat) (s : State) : (advance n s).counter = (countdown n s).state.counter := rfl
@[simp] theorem advance_fb (n : Nat) (s : State) : (advance n s).fb = (countdown n s).state.fb := rfl
@[simp] theorem advance_irqVblank (n : Nat) (s : State) : (advance n s).resp.irqVblank = (countdown n s).irqV := rfl
@[simp] theorem advance_frameDone (n : Nat) (s : State) : (advance n s).resp.frameDone = (countdown n s).frameDone := rfl

/-- ADVANCE where steps 1 to 3 set the counter alone, as they do within a line and with the display disabled. -/
theorem advance_of_held (hm : s.mem.wf = true) {c : Int} (h : countdown n s = ⟨s.setCounter c, false, false⟩) :
    (advance n s).counter = c ∧ (advance n s).reg .ly = s.reg .ly ∧ (advance n s).fb = s.fb ∧
      (advance n s).resp.irqVblank = false ∧ (advance n s).resp.frameDone = false := by
  rw [advance_ly hm, advance_counter, advance_fb, advance_irqVblank, advance_frameDone, h]
  exact ⟨rfl, rfl, rfl, rfl, rfl⟩

/-- The LY of the next line: 153 and above wrap to 0 (R136, R138). -/
theorem nextLine_ly_toNat (hm : s.mem.wf = true) :
    ((nextLine s).state.reg .ly).toNat = if 153 ≤ (s.reg .ly).toNat then 0 else (s.reg .ly).toNat + 1 := by
  obtain ⟨hmem, _⟩ := nextLine_fields s
  rw [reg_congr hmem, reg_writeReg_same hm, lastLine]
  by_cases hwrap : 153 ≤ (s.reg .ly).toNat
  · rw [if_pos (by omega), if_pos hwrap]
    rfl
  · rw [if_neg (by omega), if_neg hwrap, BitVec.toNat_ofNat, Nat.mod_eq_of_lt (by omega)]

/-- ADVANCE on exhaustion: the counter is reloaded, LY moves on, and the requests are the next line's (R134 to R138). -/
theorem advance_of_exhausted (hm : s.mem.wf = true) (hd : s.displayEnabled = true) (h : s.counter - n ≤ 0) :
    (advance n s).counter = 456 ∧
      ((advance n s).reg .ly).toNat = (if 153 ≤ (s.reg .ly).toNat then 0 else (s.reg .ly).toNat + 1) ∧
      ((advance n s).resp.irqVblank = true ↔ (s.reg .ly).toNat = 143) ∧
      ((advance n s).resp.frameDone = true ↔ 153 ≤ (s.reg .ly).toNat) := by
  obtain ⟨_, hcounter, _⟩ := nextLine_fields (s.setCounter lineBudget)
  rw [advance_ly hm, advance_counter, advance_irqVblank, advance_frameDone, countdown_of_exhausted hd h]
  exact ⟨hcounter, nextLine_ly_toNat (s := s.setCounter lineBudget) hm, nextLine_irqV_iff _, nextLine_frameDone_iff _⟩

/-- Settles O50: the exhaustion case of ADVANCE. -/
theorem advanceToTheNextLine : Obligations.AdvanceToTheNextLine :=
  fun s n hm hd h => ⟨_, exec_advance n s, advance_of_exhausted hm hd h⟩

/-- An ADVANCE that moves LY is one that exhausts the counter with the display on. -/
theorem advance_held_or_exhausted (hm : s.mem.wf = true) (n : Nat) :
    ((advance n s).reg .ly = s.reg .ly ∧ (advance n s).fb = s.fb ∧
        (advance n s).resp.irqVblank = false ∧ (advance n s).resp.frameDone = false) ∨
      (s.displayEnabled = true ∧ s.counter - n ≤ 0) := by
  rcases countdown_cases n s with ⟨_, hc⟩ | ⟨_, _, hc⟩ | ⟨hd, h, _⟩
  · exact .inl (advance_of_held hm hc).2
  · exact .inl (advance_of_held hm hc).2
  · exact .inr ⟨hd, h⟩

/-- Settles O60: with LY held neither side holds; on exhaustion LY becomes 144 from 143 alone, and 0 from 153 and above
alone. -/
theorem vBlankAndFrameEndFireOnEntry : Obligations.VBlankAndFrameEndFireOnEntry := by
  intro s t n hm h
  obtain rfl : advance n s = t := Host.Outcome.next.inj h
  rcases advance_held_or_exhausted hm n with ⟨hly, _, hv, hf⟩ | ⟨hd, hc⟩
  · rw [hly, hv, hf]
    simp
  · obtain ⟨_, hly, hv, hf⟩ := advance_of_exhausted hm hd hc
    rw [hly, hv, hf]
    split <;> omega

end Sys2Proof.Machine
end

section
/-! The frame buffer under ADVANCE and the RENDER commands (spec/40_sequencer.md rules R137, R145;
spec/43_palette_framebuffer.md rule R221; spec/60_exceptions.md rule R262). -/

namespace Sys2Proof.Machine

variable {s t : State}

/-- The byte the next line writes to LY while it does not wrap. -/
theorem ofNat_toNat_add_one (b : Byte) : BitVec.ofNat 8 (b.toNat + 1) = b + 1 := by
  rw [BitVec.ofNat_add, BitVec.ofNat_toNat, BitVec.setWidth_eq]
  rfl

/-- A previous LY of 0-142 renders the new line, with the new LY written (R137). -/
theorem nextLine_fb_of_le (h : (s.reg .ly).toNat ≤ 142) :
    (nextLine s).state.fb =
      (renderLineBody ⟨(s.reg .ly).toNat + 1, by omega⟩ (s.writeReg .ly (s.reg .ly + 1))).fb := by
  simp only [nextLine, dif_pos h, ofNat_toNat_add_one, lastLine]
  rw [if_neg (by simp; omega)]

/-- Any other previous LY renders nothing (R137). -/
theorem nextLine_fb_of_ge (h : 143 ≤ (s.reg .ly).toNat) : (nextLine s).state.fb = s.fb := by
  have hnot : ¬ (s.reg .ly).toNat ≤ 142 := by omega
  simp only [nextLine, dif_neg hnot, State.writeReg_fb]

/-- The next line changes no row of the frame but the one it moves to. -/
theorem nextLine_row_other {r : Fin 144} (h : (s.reg .ly).toNat + 1 ≠ r) :
    (nextLine s).state.fb.row r = s.fb.row r := by
  by_cases hl : (s.reg .ly).toNat ≤ 142
  · have hr : r ≠ ⟨(s.reg .ly).toNat + 1, by omega⟩ := fun e => h (congrArg Fin.val e).symm
    rw [nextLine_fb_of_le hl, renderLineBody_row_other hr, State.writeReg_fb]
  · rw [nextLine_fb_of_ge (by omega)]

/-- ADVANCE changes no row of the frame but the one after LY, whatever the display and the memory. -/
theorem advance_row_other (n : Nat) {r : Fin 144} (h : (s.reg .ly).toNat + 1 ≠ r) :
    (advance n s).fb.row r = s.fb.row r := by
  rw [advance_fb]
  rcases countdown_cases n s with ⟨_, hc⟩ | ⟨_, _, hc⟩ | ⟨_, _, hc⟩ <;> rw [hc]
  · rfl
  · rfl
  · exact nextLine_row_other (s := s.setCounter lineBudget) h

/-- Settles O52: row 0 is the row after no LY. -/
theorem advanceNeverRendersRowZero : Obligations.AdvanceNeverRendersRowZero := by
  intro s t n h
  obtain rfl : advance n s = t := Host.Outcome.next.inj h
  exact advance_row_other n (Nat.succ_ne_zero _)

/-- Settles O51: RENDER_LINE finds the new LY written and runs the body ADVANCE runs on that row; the reloaded counter is
nothing the renderers read. -/
theorem advanceRendersTheNewLine : Obligations.AdvanceRendersTheNewLine := by
  intro s t n hm hd hc h
  obtain rfl : advance n s = t := Host.Outcome.next.inj h
  rw [advance_fb, countdown_of_exhausted hd hc]
  refine ⟨fun hl => ?drawn, fun hl => nextLine_fb_of_ge (s := s.setCounter lineBudget) hl⟩
  case drawn =>
    have hrow : ((s.writeReg .ly (s.reg .ly + 1)).reg .ly).toNat = (s.reg .ly).toNat + 1 := by
      rw [reg_writeReg_same hm]
      bv_omega
    refine ⟨_, exec_renderLine_of_row (ly := ⟨(s.reg .ly).toNat + 1, by omega⟩) hrow, ?_⟩
    rw [nextLine_fb_of_le (s := s.setCounter lineBudget) hl]
    exact renderLineBody_fb_congr _ rfl rfl rfl

/-- A row that ADVANCE changes is the row LY moves to. -/
theorem advance_row_ne (hm : s.mem.wf = true) {n : Nat} {r : Fin 144} (h : (advance n s).fb.row r ≠ s.fb.row r) :
    (s.reg .ly).toNat + 1 = r ∧ ((advance n s).reg .ly).toNat = r := by
  have hr : (s.reg .ly).toNat + 1 = r := by
    by_contra hne
    exact h (advance_row_other n hne)
  rcases advance_held_or_exhausted hm n with ⟨_, hfb, _⟩ | ⟨hd, hc⟩
  · exact absurd (congrArg (·.row r) hfb) h
  · obtain ⟨_, hly, _⟩ := advance_of_exhausted hm hd hc
    rw [hly, if_neg (by omega)]
    exact ⟨hr, hr⟩

/-- A row that a renderer's command changes is row LY, where the renderer changes its own row alone. -/
theorem renderCurrentLine_row_ne {render : Fin 144 → State → State}
    (hr : ∀ {ly r : Fin 144}, r ≠ ly → ∀ u, (render ly u).fb.row r = u.fb.row r) {r : Fin 144}
    (h : renderCurrentLine render s = .next t) (hne : t.fb.row r ≠ s.fb.row r) : (s.reg .ly).toNat = r := by
  rcases renderCurrentLine_cases h with ⟨hl, rfl⟩ | ⟨_, rfl⟩
  · by_contra hly
    exact hne (hr (fun e => hly (congrArg Fin.val e).symm) s)
  · exact absurd rfl hne

theorem execFbRead_fb {row col : Nat} (h : execFbRead row col s = .next t) : t.fb = s.fb := by
  unfold execFbRead at h
  split at h <;> rw [← Host.Outcome.next.inj h] <;> rfl

/-- Settles O15: each command's own rule, the renderers' by the row they draw. -/
theorem frameBufferWriters : Obligations.FrameBufferWriters := by
  intro i s t r hm h hne
  cases i with
  | advance n =>
    obtain rfl : advance n s = t := Host.Outcome.next.inj h
    exact .inr (.inr ⟨⟨n, rfl⟩, advance_row_ne hm hne⟩)
  | renderLine => exact .inr (.inl ⟨.inl rfl, renderCurrentLine_row_ne renderLineBody_row_other h hne⟩)
  | renderBg => exact .inr (.inl ⟨.inr (.inl rfl), renderCurrentLine_row_ne renderBg_row_other h hne⟩)
  | renderObj => exact .inr (.inl ⟨.inr (.inr rfl), renderCurrentLine_row_ne renderObj_row_other h hne⟩)
  | fbClear => exact .inl rfl
  | fbRead row col => exact absurd (congrArg (·.row r) (execFbRead_fb h)) hne
  | palLookup ci p => exact absurd (by rw [← Host.Outcome.next.inj h]; rfl) hne
  | busw a v => exact absurd (by rw [← Host.Outcome.next.inj h]; rfl) hne
  | busr a => exact absurd (by rw [← Host.Outcome.next.inj h]; rfl) hne

theorem renderCurrentLine_of_past_last_row (h : 144 ≤ (s.reg .ly).toNat) (render : Fin 144 → State → State) :
    renderCurrentLine render s = .next (s.recordFault .badLine) := by
  rw [renderCurrentLine, dif_neg (by omega), raiseFault_eq]

/-- Settles O46: each of the three commands is `renderCurrentLine` of its renderer. -/
theorem renderCommandsFaultPastTheLastRow : Obligations.RenderCommandsFaultPastTheLastRow := by
  rintro s i (rfl | rfl | rfl) h <;> exact renderCurrentLine_of_past_last_row h _

end Sys2Proof.Machine
end

section
/-! STAT and the LCD-STAT request after ADVANCE (spec/40_sequencer.md rules R132, R133, R139 to R146). -/

namespace Sys2Proof.Machine

variable {s t : State} {n : Nat}

/-- The mode by the thresholds of the 456-cycle budget (R139). -/
theorem modeOf_eq (enabled : Bool) (ly : Nat) (counter : Int) :
    modeOf enabled ly counter =
      if enabled = false then 0 else if 144 ≤ ly then 1 else if 376 ≤ counter then 2
      else if 204 ≤ counter then 3 else 0 := by
  unfold modeOf ppuStateOf vblankLine mode2Min mode3Min
  split_ifs <;> rfl

/-- Settles O53: the fields of the byte written back. -/
theorem advanceWritesStatBack : Obligations.AdvanceWritesStatBack := by
  intro s t n hm h
  obtain rfl : advance n s = t := Host.Outcome.next.inj h
  rw [advance_stat hm]
  refine ⟨statWriteBack_kept _ _ _, ?_, (statWriteBack_mode _ _ _).trans (modeOf_eq _ _ _)⟩
  rw [statWriteBack_match, beq_iff_eq]

/-- The request bit, judged against the old STAT, from the mode and the LY that ADVANCE leaves. -/
theorem advance_irqStat (hm : s.mem.wf = true) (n : Nat) :
    (advance n s).resp.irqStat =
      (modeEdge (s.reg .stat) (statMode ((advance n s).reg .stat)) ||
        lycRequest s.cfg.lycIrqMode (s.reg .stat) ((advance n s).reg .ly == s.reg .lyc)) := by
  obtain ⟨_, _, hcfg⟩ := countdown_port_faults_cfg n s
  rw [advance_stat hm, statWriteBack_mode, advance_ly hm, ← hcfg, ← countdown_reg hm n (r := .lyc) (by decide)]
  rfl

theorem modeEdge_iff (stat0 : Byte) (mode : BitVec 2) :
    modeEdge stat0 mode = true ↔
      mode ≠ statMode stat0 ∧ ((mode = 2 ∧ testBit stat0 5 = true) ∨ (mode = 0 ∧ testBit stat0 3 = true) ∨
        (mode = 1 ∧ testBit stat0 4 = true)) := by
  simp [modeEdge, or_assoc]

theorem lycRequest_iff (variant : LycIrqMode) (stat0 : Byte) (isMatch : Bool) :
    lycRequest variant stat0 isMatch = true ↔
      isMatch = true ∧ testBit stat0 6 = true ∧ (variant = .level ∨ testBit stat0 2 = false) := by
  simp [lycRequest, statMatch, and_assoc]

theorem advance_irqStat_iff (hm : s.mem.wf = true) (n : Nat) :
    (advance n s).resp.irqStat = true ↔ LcdStatCause s (advance n s) := by
  rw [advance_irqStat hm, Bool.or_eq_true, modeEdge_iff, lycRequest_iff, beq_iff_eq, LcdStatCause]

/-- Settles O54: the two requests of steps 5 and 6 are the two causes. -/
theorem advanceRequestsLcdStat : Obligations.AdvanceRequestsLcdStat := by
  intro s t n hm h
  obtain rfl : advance n s = t := Host.Outcome.next.inj h
  exact advance_irqStat_iff hm n

/-- Settles O49: within the line steps 1 to 3 set the counter alone, and the rest is every ADVANCE's. -/
theorem advanceWithinALine : Obligations.AdvanceWithinALine := by
  intro s n hm hd hc
  obtain ⟨hcounter, hly, hfb, hv, hf⟩ := advance_of_held hm (countdown_of_pos hd hc)
  exact ⟨_, exec_advance n s, hcounter, hly, hfb, hv, hf, advanceBringsStatUpToDate s _ n hm (exec_advance n s),
    advance_irqStat_iff hm n⟩

/-- Settles O48: disabled, steps 1 to 3 reload the counter alone; STAT is written back with mode 0, and the change to it is
the first cause of a request. -/
theorem advanceWhileDisabled : Obligations.AdvanceWhileDisabled := by
  intro s n hm hd
  obtain ⟨hcounter, hly, hfb, hv, hf⟩ := advance_of_held (n := n) hm (countdown_of_disabled hd)
  obtain ⟨_, hmatch, hmode⟩ := advanceWritesStatBack s _ n hm (exec_advance n s)
  rw [if_pos hd] at hmode
  rw [hly] at hmatch
  refine ⟨_, exec_advance n s, hcounter, hly, hfb, hv, hf, hmode, hmatch, advance_irqStat_iff hm n, fun hold h3 => ?_⟩
  rw [advance_irqStat_iff hm]
  exact .inl ⟨by rw [hmode]; exact hold.symm, .inr (.inl ⟨hmode, h3⟩)⟩

/-- The mode STAT already shows is no change (R140, R141). -/
theorem modeEdge_self (stat : Byte) : modeEdge stat (statMode stat) = false := by simp [modeEdge]

/-- In `Edge` mode the match STAT already shows requests nothing (R143). -/
theorem lycRequest_edge_self (stat : Byte) : lycRequest .edge stat (statMatch stat) = false := by
  cases h : statMatch stat <;> simp [lycRequest, h]

theorem advance_statMatch (hm : s.mem.wf = true) (n : Nat) :
    statMatch ((advance n s).reg .stat) = ((advance n s).reg .ly == s.reg .lyc) := by
  rw [statMatch, advance_stat hm, statWriteBack_match]

/-- In `Edge` mode an ADVANCE that leaves the mode and the match bit as they were requests no LCD-STAT. -/
theorem advance_irqStat_of_unchanged (hm : s.mem.wf = true) (hedge : s.cfg.lycIrqMode = .edge)
    (hmode : statMode ((advance n s).reg .stat) = statMode (s.reg .stat))
    (hmatch : statMatch ((advance n s).reg .stat) = statMatch (s.reg .stat)) :
    (advance n s).resp.irqStat = false := by
  rw [advance_irqStat hm, hmode, ← advance_statMatch hm, hmatch, hedge, modeEdge_self, lycRequest_edge_self, Bool.or_self]

/-- Settles O56: the first ADVANCE leaves the parameters and a canonical memory, so the second one's rule applies. -/
theorem requestFiresOncePerMode : Obligations.RequestFiresOncePerMode := by
  intro s t u n n' hm hedge h h' hmode hmatch
  obtain rfl : advance n s = t := Host.Outcome.next.inj h
  obtain rfl : advance n' (advance n s) = u := Host.Outcome.next.inj h'
  obtain ⟨_, _, hcfg⟩ := advance_port_faults_cfg n s
  exact advance_irqStat_of_unchanged (advance_wf hm n) (by rw [hcfg, hedge]) hmode hmatch

/-- Steps 1 to 3 of ADVANCE 0 do nothing between commands, but for a disabled display whose counter is not reloaded yet. -/
theorem countdown_zero (hpos : 1 ≤ s.counter) (h : s.displayEnabled = true ∨ s.counter = 456) :
    countdown 0 s = ⟨s, false, false⟩ := by
  cases hd : s.displayEnabled
  · have hfull : s.counter = lineBudget := h.resolve_left (by simp [hd])
    rw [countdown_of_disabled hd, ← hfull]
    rfl
  · rw [countdown_of_pos hd (by omega), Nat.cast_zero, sub_zero]
    rfl

theorem writeReg_reg_self (hm : s.mem.wf = true) (r : Reg) : s.writeReg r (s.reg r) = s := by
  rw [State.writeReg, State.writeDirectly, State.reg, Memory.reg, Memory.write_read_self hm]

/-- Steps 4 to 6 on a state whose STAT is up to date, in `Edge` mode: the byte written back is the byte held, and nothing is
requested. -/
theorem updateStat_of_statCurrent (hm : s.mem.wf = true) (hcur : s.StatCurrent) (hedge : s.cfg.lycIrqMode = .edge) :
    updateStat (s.reg .stat) s.displayEnabled ⟨s, false, false⟩ = s.respond Response.ok := by
  have hmode : modeOf s.displayEnabled (s.reg .ly).toNat s.counter = statMode (s.reg .stat) := hcur.mode.symm
  have hback : statWriteBack (s.reg .stat) (statMatch (s.reg .stat)) (statMode (s.reg .stat)) = s.reg .stat :=
    statWriteBack_self _
  simp only [updateStat, hmode, ← hcur.lycMatch, hback, writeReg_reg_self hm, hedge, modeEdge_self,
    lycRequest_edge_self, Bool.or_self]
  rfl

/-- Settles O57: steps 1 to 3 do nothing, and steps 4 to 6 find STAT up to date. -/
theorem advanceZeroOnlyRefreshesStat : Obligations.AdvanceZeroOnlyRefreshesStat := by
  intro s hs hcur hedge hd
  rw [exec_advance, advance, countdown_zero hs.counter_pos hd, updateStat_of_statCurrent hs.mem_wf hcur hedge]
  rfl

end Sys2Proof.Machine
end

section
/-! Runs of ADVANCE (spec/40_sequencer.md rule R148), by induction on the list of counts and on the number of line
periods. -/

namespace Sys2Proof.Machine

variable {s : State}

theorem runCommands_advance (n : Nat) (is : List Instr) (s : State) :
    runCommands (.advance n :: is) s = runCommands is (advance n s) := rfl

/-- Counts that stay below the counter only count it down. -/
theorem runCommands_advance_within_line (hm : s.mem.wf = true) (hd : s.displayEnabled = true) (ns : List Nat)
    (h : 0 < s.counter - ns.sum) :
    ∃ t, runCommands (ns.map .advance) s = some t ∧ t.mem.wf = true ∧ t.displayEnabled = true ∧
      t.reg .ly = s.reg .ly ∧ t.counter = s.counter - ns.sum := by
  induction ns generalizing s with
  | nil => exact ⟨s, rfl, hm, hd, rfl, by simp⟩
  | cons n ns ih =>
    rw [List.sum_cons, Nat.cast_add] at h ⊢
    obtain ⟨hcounter, hly, _⟩ := advance_of_held hm (countdown_of_pos (n := n) hd (by omega))
    obtain ⟨t, hrun, hwf, hon, hly', hcounter'⟩ :=
      ih (advance_wf hm n) ((advance_displayEnabled hm n).trans hd) (by omega)
    exact ⟨t, hrun, hwf, hon, hly'.trans hly, by omega⟩

/-- Settles O58: the counts before the last leave the counter at the last one, which exhausts it. -/
theorem oneLineHoweverSplit : Obligations.OneLineHoweverSplit := by
  intro s ns last hm hd hfull hlast hsum hpos
  obtain ⟨t, hrun, hwf, hon, hly, hcounter⟩ := runCommands_advance_within_line hm hd ns (by omega)
  obtain ⟨hreload, hnext, _⟩ := advance_of_exhausted (n := last) hwf hon (by omega)
  refine ⟨t, _, hrun, hly, by omega, exec_advance last t, ?_, hreload⟩
  rw [hly, if_neg (by omega)] at hnext
  bv_omega

/-- Settles O59: each period exhausts a full counter and moves LY to its successor modulo 154. -/
theorem frameIs154LinePeriods : Obligations.FrameIs154LinePeriods := by
  intro s k hm hd hfull hly
  induction k generalizing s with
  | zero => exact ⟨s, rfl, hfull, by omega⟩
  | succ k ih =>
    obtain ⟨hreload, hnext, _⟩ := advance_of_exhausted (n := 456) hm hd (by omega)
    have hmod : ((advance 456 s).reg .ly).toNat = ((s.reg .ly).toNat + 1) % 154 := by
      rw [hnext]
      split <;> omega
    obtain ⟨t, hrun, hcounter, ht⟩ :=
      ih (advance 456 s) (advance_wf hm 456) ((advance_displayEnabled hm 456).trans hd) hreload (by omega)
    exact ⟨t, hrun, hcounter, by omega⟩

end Sys2Proof.Machine
end

section
/-! RENDER_BG's pixels (spec/41_background.md rules R160 to R170): the tile address and the source of a pixel in closed
form, without signed numbers and without `trunc8`, and the pixel they give. -/

namespace Sys2Proof.Machine

/-- The two modes differ below index 128 alone: from there on the sign takes off the 4096 bytes between them (R165). -/
theorem bgTileAddr_eq (direct : Bool) (idx : Byte) :
    bgTileAddr direct idx =
      if direct = false ∧ idx.toNat < 128 then 0x9000 + 16 * idx.toNat else 0x8000 + 16 * idx.toNat := by
  cases direct
  case false =>
    have hsext := BitVec.toInt_eq_toNat_cond idx
    simp only [bgTileAddr, tileDataSigned, Bool.false_eq_true, if_false, true_and]
    split at hsext <;> split <;> omega
  case true => simp [bgTileAddr, tileDataUnsigned]

/-- Settles O34: both modes from the closed form, and its value at index 0xFF (R170). -/
theorem backgroundTileAddresses : Obligations.BackgroundTileAddresses := by
  refine ⟨fun idx => ⟨?direct, ?signed⟩, ?quirk, ?quirkSigned⟩
  case direct | signed => simp [bgTileAddr_eq]
  case quirk | quirkSigned => rw [bgTileAddr_eq]; decide

/-- On the screen a window pixel's coordinates lie between 0 and 166, so only a background pixel's wrap (R161, R162). -/
theorem BgRegs.source_eq (r : BgRegs) (ly : Fin 144) (sx : Fin 160) :
    r.source ly sx =
      { mapSelect := if r.win ly sx then testBit r.lcdc 6 else testBit r.lcdc 3
        py := if r.win ly sx then ly - r.wy else (r.scy + ly) % 256
        px := if r.win ly sx then sx + 7 - r.wx else (sx + r.scx) % 256 } := by
  by_cases hwin : r.win ly sx = true
  case pos =>
    obtain ⟨_, hwy, hwx⟩ := (r.win_iff ly sx).mp hwin
    simp only [BgRegs.source, if_pos hwin, trunc8, BgSource.mk.injEq, true_and]
    omega
  case neg =>
    simp only [BgRegs.source, if_neg hwin, trunc8, BgSource.mk.injEq, true_and]
    omega

theorem bgRow_getElem (m : Memory) (ly : Fin 144) (sx : Fin 160) : (bgRow m ly)[sx] = bgPixel (bgRegs m) m ly sx := by
  simp [bgRow]

/-- Settles O31: the row drawn is `bgRow`; with the source, the tile address and the colour index in closed form its pixel
is the statement's, up to the names of the registers and the map base. -/
theorem renderBgWritesEveryPixelOfTheRow : Obligations.RenderBgWritesEveryPixelOfTheRow := by
  intro s ly hly
  refine ⟨_, exec_renderBg_of_row hly, (renderBg_sameButFb ly s).respond_eq _, fun r hr => ?others, fun sx => ?pixel⟩
  case others => exact renderBg_row_other hr s
  case pixel =>
    simp only [State.respond_fb, renderBg_row_same, bgRow_getElem, bgPixel, BgRegs.source_eq, BgRegs.win_iff,
      TileRow.colourIndex_eq, BgSource.rowAddr, bgTileAddr_eq]
    rfl

end Sys2Proof.Machine
end

section
/-! The drawing of one sprite's line (spec/42_sprites.md rules R192 to R199): what one column does, and, by induction on the
columns drawn, which pixel each of them leaves and how long the hiding stays armed. -/

namespace Sys2Proof.Machine

variable {cfg : Config} {l : SpriteLine} {row : Row} {st : SpriteRow} {c n : Nat} {sx : Fin 160}

theorem spriteColumn_of_transparent (st : SpriteRow) (h : transparent cfg.objTransparency (l.ci c) l.palette = true) :
    spriteColumn cfg l st c = st := by simp [spriteColumn, h]

theorem spriteColumn_of_offScreen (cfg : Config) (st : SpriteRow) (h : l.column c = none) :
    spriteColumn cfg l st c = st := by simp [spriteColumn, h]

theorem spriteColumn_of_placed (st : SpriteRow) (h : transparent cfg.objTransparency (l.ci c) l.palette = false)
    (hsx : l.column c = some sx) :
    spriteColumn cfg l st c = st.place cfg.prioVariant sx (pal (l.ci c) l.palette) := by simp [spriteColumn, h, hsx]

/-- A column changes no pixel but the one it falls on. -/
theorem spriteColumn_row_other (cfg : Config) (st : SpriteRow) (h : l.column c ≠ some sx) :
    (spriteColumn cfg l st c).row[sx] = st.row[sx] := by
  cases ht : transparent cfg.objTransparency (l.ci c) l.palette with
  | true => rw [spriteColumn_of_transparent st ht]
  | false =>
    cases hcol : l.column c with
    | none => rw [spriteColumn_of_offScreen cfg st hcol]
    | some sx' =>
      have hne : sx ≠ sx' := fun e => h (by rw [hcol, e])
      rw [spriteColumn_of_placed st ht hcol, SpriteRow.place_row_other _ _ hne]

/-- Two columns of a sprite never fall on one pixel. -/
theorem SpriteLine.column_injective {c' : Nat} (h : l.column c = some sx) (h' : l.column c' = some sx) : c = c' := by
  rw [SpriteLine.column_iff] at h h'
  omega

theorem SpriteLine.overNonWhite_iff (h : l.column c = some sx) : l.OverNonWhite row c ↔ row[sx] ≠ white := by
  simp [SpriteLine.OverNonWhite, h]

theorem SpriteLine.not_overNonWhite_of_offScreen (row : Row) (h : l.column c = none) : ¬ l.OverNonWhite row c := by
  simp [SpriteLine.OverNonWhite, h]

/-- A column ends the hiding exactly when it is opaque and on the screen over non-WHITE, whichever the variant. -/
theorem spriteColumn_hideArmed_iff (hc : c < 8) :
    (spriteColumn cfg l st c).hideArmed = true ↔
      st.hideArmed = true ∧ (l.Opaque cfg c → ¬ l.OverNonWhite st.row c) := by
  cases ht : transparent cfg.objTransparency (l.ci c) l.palette with
  | true =>
    have hopaque : ¬ l.Opaque cfg c := by simp [SpriteLine.Opaque, ht]
    simp [spriteColumn_of_transparent st ht, hopaque]
  | false =>
    have hopaque : l.Opaque cfg c := ⟨hc, ht⟩
    cases hcol : l.column c with
    | none => simp [spriteColumn_of_offScreen cfg st hcol, SpriteLine.not_overNonWhite_of_offScreen st.row hcol]
    | some sx =>
      rw [spriteColumn_of_placed st ht hcol, SpriteRow.place_hideArmed, SpriteLine.overNonWhite_iff hcol]
      simp [hopaque]

/-- The row and the priority state after the first `n` columns of `drawSpriteLine`. -/
def spriteColumns (cfg : Config) (l : SpriteLine) (row : Row) (n : Nat) : SpriteRow :=
  (List.range n).foldl (spriteColumn cfg l) ⟨row, l.entry.prio⟩

theorem drawSpriteLine_eq (cfg : Config) (l : SpriteLine) (row : Row) :
    drawSpriteLine cfg l row = (spriteColumns cfg l row 8).row := rfl

@[simp] theorem spriteColumns_zero (cfg : Config) (l : SpriteLine) (row : Row) :
    spriteColumns cfg l row 0 = ⟨row, l.entry.prio⟩ := rfl

theorem spriteColumns_succ (cfg : Config) (l : SpriteLine) (row : Row) (n : Nat) :
    spriteColumns cfg l row (n + 1) = spriteColumn cfg l (spriteColumns cfg l row n) n := by
  simp [spriteColumns, List.range_succ]

/-- A pixel that none of the columns drawn so far falls on keeps its colour. -/
theorem spriteColumns_row_unreached (cfg : Config) (row : Row) (h : ∀ c, c < n → l.column c ≠ some sx) :
    (spriteColumns cfg l row n).row[sx] = row[sx] := by
  induction n with
  | zero => rfl
  | succ n ih =>
    rw [spriteColumns_succ, spriteColumn_row_other cfg _ (h n (by omega))]
    exact ih fun c hc => h c (by omega)

/-- Column `c` finds its pixel as the row had it: the columns before fall on others. -/
theorem spriteColumns_row_before (cfg : Config) (row : Row) (h : l.column c = some sx) :
    (spriteColumns cfg l row c).row[sx] = row[sx] :=
  spriteColumns_row_unreached cfg row fun _ hlt h' => absurd (SpriteLine.column_injective h' h) (by omega)

/-- The pixel of column `c` is settled once that column is drawn. -/
theorem spriteColumns_row_after (cfg : Config) (row : Row) (h : l.column c = some sx) (hn : c + 1 ≤ n) :
    (spriteColumns cfg l row n).row[sx] = (spriteColumns cfg l row (c + 1)).row[sx] := by
  induction n, hn using Nat.le_induction with
  | base => rfl
  | succ n hn ih =>
    have hne : l.column n ≠ some sx := fun h' => absurd (SpriteLine.column_injective h h') (by omega)
    rw [spriteColumns_succ, spriteColumn_row_other cfg _ hne, ih]

/-- The hiding of a sprite's row is armed before column `c`: the sprite has priority, and no opaque column before `c` lies
over non-WHITE (R193, R194). -/
def SpriteLine.Armed (l : SpriteLine) (cfg : Config) (row : Row) (c : Nat) : Prop :=
  l.entry.prio = true ∧ ∀ c', c' < c → l.Opaque cfg c' → ¬ l.OverNonWhite row c'

theorem SpriteLine.armed_succ_iff :
    l.Armed cfg row (n + 1) ↔ l.Armed cfg row n ∧ (l.Opaque cfg n → ¬ l.OverNonWhite row n) := by
  simp only [SpriteLine.Armed, Nat.forall_lt_succ_right, and_assoc]

theorem spriteColumns_hideArmed_iff (cfg : Config) (l : SpriteLine) (row : Row) (hn : n ≤ 8) :
    (spriteColumns cfg l row n).hideArmed = true ↔ l.Armed cfg row n := by
  induction n with
  | zero => simp [SpriteLine.Armed]
  | succ n ih =>
    have hover : l.OverNonWhite (spriteColumns cfg l row n).row n ↔ l.OverNonWhite row n := by
      cases hcol : l.column n with
      | none => simp [SpriteLine.not_overNonWhite_of_offScreen _ hcol]
      | some sx =>
        rw [SpriteLine.overNonWhite_iff hcol, SpriteLine.overNonWhite_iff hcol, spriteColumns_row_before cfg row hcol]
    rw [spriteColumns_succ, spriteColumn_hideArmed_iff (by omega), ih (by omega), hover, SpriteLine.armed_succ_iff]

theorem drawSpriteLine_unreached (cfg : Config) (row : Row) (h : ∀ c, c < 8 → l.column c ≠ some sx) :
    (drawSpriteLine cfg l row)[sx] = row[sx] := spriteColumns_row_unreached cfg row h

/-- The pixel a sprite's column falls on is what that column makes of it. -/
theorem drawSpriteLine_reached (cfg : Config) (row : Row) (hc : c < 8) (h : l.column c = some sx) :
    (drawSpriteLine cfg l row)[sx] = (spriteColumn cfg l (spriteColumns cfg l row c) c).row[sx] := by
  rw [drawSpriteLine_eq, spriteColumns_row_after cfg row h hc, spriteColumns_succ]

theorem drawSpriteLine_transparent (row : Row) (hc : c < 8) (h : l.column c = some sx)
    (ht : transparent cfg.objTransparency (l.ci c) l.palette = true) : (drawSpriteLine cfg l row)[sx] = row[sx] := by
  rw [drawSpriteLine_reached cfg row hc h, spriteColumn_of_transparent _ ht, spriteColumns_row_before cfg row h]

theorem drawSpriteLine_opaque (row : Row) (ho : l.Opaque cfg c) (h : l.column c = some sx) :
    (drawSpriteLine cfg l row)[sx] =
      if (spriteColumns cfg l row c).hideArmed = true ∧ (cfg.prioVariant = .scenario ↔ row[sx] = white) then row[sx]
      else pal (l.ci c) l.palette := by
  obtain ⟨hc, ht⟩ := ho
  rw [drawSpriteLine_reached cfg row hc h, spriteColumn_of_placed _ ht h, SpriteRow.place_row_same,
    spriteColumns_row_before cfg row h]

/-- An opaque pixel is hidden while the hiding is armed, over WHITE under `Scenario` (R195) and over non-WHITE under `Prose`
(R196). -/
theorem drawSpriteLine_hidden (ho : l.Opaque cfg c) (h : l.column c = some sx) (harmed : l.Armed cfg row c)
    (hv : cfg.prioVariant = .scenario ↔ row[sx] = white) : (drawSpriteLine cfg l row)[sx] = row[sx] := by
  rw [drawSpriteLine_opaque row ho h, if_pos ⟨(spriteColumns_hideArmed_iff cfg l row ho.1.le).mpr harmed, hv⟩]

/-- Any other opaque pixel is drawn. -/
theorem drawSpriteLine_shown (ho : l.Opaque cfg c) (h : l.column c = some sx)
    (hv : l.Armed cfg row c → ¬ (cfg.prioVariant = .scenario ↔ row[sx] = white)) :
    (drawSpriteLine cfg l row)[sx] = pal (l.ci c) l.palette := by
  rw [drawSpriteLine_opaque row ho h,
    if_neg fun hh => hv ((spriteColumns_hideArmed_iff cfg l row ho.1.le).mp hh.1) hh.2]

theorem transparent_iff (t : ObjTransparency) {ci : Nat} (h : ci ≤ 3) (p : Byte) :
    transparent t ci p = true ↔ (t = .index0 ∧ ci = 0) ∨ (t = .shade0 ∧ p.toNat / 4 ^ ci % 4 = 0) := by
  rw [← shade_toNat h]
  cases t with
  | none => simp [transparent]
  | index0 => simp [transparent]
  | shade0 => simp [transparent, BitVec.toNat_eq]

/-- Settles O40: the pixel is reached by no column, or by one column, transparent or opaque. -/
theorem transparencyDecidesWhatIsDrawn : Obligations.TransparencyDecidesWhatIsDrawn := by
  intro cfg l row sx
  refine ⟨drawSpriteLine_unreached cfg row, fun c hc h => ⟨fun ht => ?kept, fun hp ht => ?drawn⟩⟩
  case kept => exact drawSpriteLine_transparent row hc h ((transparent_iff _ (l.ci_le c) _).mpr ht)
  case drawn =>
    have hopaque : transparent cfg.objTransparency (l.ci c) l.palette = false := by
      rw [Bool.eq_false_iff, ne_eq, transparent_iff _ (l.ci_le c)]
      obtain ht | ⟨ht, hne⟩ | ⟨ht, hne⟩ := ht
      · simp [ht]
      · simp [ht, hne]
      · simp [ht, hne]
    exact drawSpriteLine_shown ⟨hc, hopaque⟩ h fun harmed => absurd harmed.1 (by simp [hp])

/-- Settles O41: a pixel is hidden exactly while the hiding is armed and the pixel lies over WHITE. -/
theorem scenarioShowsFromTheFirstNonWhite : Obligations.ScenarioShowsFromTheFirstNonWhite := by
  refine ⟨rfl, fun cfg l row c sx hv hp ho h => ⟨fun ⟨c', hle, ho', hover⟩ => ?shown, fun hnone => ?hidden⟩⟩
  case shown =>
    refine drawSpriteLine_shown ho h fun ⟨_, hbefore⟩ hwhite => ?_
    obtain rfl | hlt := Nat.eq_or_lt_of_le hle
    · exact (SpriteLine.overNonWhite_iff h).mp hover (hwhite.mp hv)
    · exact hbefore c' hlt ho' hover
  case hidden =>
    have hwhite : row[sx] = white := not_not.mp fun hne => hnone c le_rfl ho ((SpriteLine.overNonWhite_iff h).mpr hne)
    exact drawSpriteLine_hidden ho h ⟨hp, fun c' hlt => hnone c' hlt.le⟩ (iff_of_true hv hwhite)

/-- Settles O42: a pixel is hidden only while armed and over non-WHITE. -/
theorem proseHidesOnlyTheFirstNonWhite : Obligations.ProseHidesOnlyTheFirstNonWhite := by
  intro cfg l row c sx hv hp ho h
  have hvariant : cfg.prioVariant ≠ .scenario := by simp [hv]
  refine ⟨fun ⟨hne, hfirst⟩ => drawSpriteLine_hidden ho h ⟨hp, hfirst⟩ (iff_of_false hvariant hne), fun hshown => ?shown⟩
  case shown =>
    refine drawSpriteLine_shown ho h fun ⟨_, hbefore⟩ hwhite => ?_
    obtain hw | ⟨c', hlt, ho', hover⟩ := hshown
    · exact hvariant (hwhite.mpr hw)
    · exact hbefore c' hlt ho' hover

end Sys2Proof.Machine
end

section
/-! RENDER_OBJ's entries (spec/42_sprites.md rules R185 to R191, R198, R201): which of them cover a line, what one shows on
it, and the row all of them leave. -/

namespace Sys2Proof.Machine

variable {s : State}

theorem renderObj_row_same (ly : Fin 144) (s : State) :
    (renderObj ly s).fb.row ly = objRow s.cfg s.mem ly (s.fb.row ly) := Frame.row_setRow_same s.fb ly _

/-- An entry drawn, with its extent written without negative numbers. -/
theorem drawSprite_eq (cfg : Config) (m : Memory) (ly : Nat) (row : Row) (i : Nat) :
    drawSprite cfg m ly row i =
      if (m.read (oamBase + 4 * i)).toNat ≤ ly + 16 ∧
          ly + 16 < (m.read (oamBase + 4 * i)).toNat + spriteHeight (m.reg .lcdc)
      then drawSpriteLine cfg (spriteLine m ly i) row else row := by
  simp only [drawSprite, oamEntry_covers_iff]

/-- Settles O36: the row drawn is `objRow`, the fold of `drawSprite` over the table. -/
theorem renderObjDrawsEveryCoveringEntry : Obligations.RenderObjDrawsEveryCoveringEntry := by
  intro s ly hly
  refine ⟨_, exec_renderObj_of_row hly, (renderObj_sameButFb ly s).respond_eq _,
    fun r hr => renderObj_row_other hr s, ?row⟩
  case row =>
    rw [State.respond_fb, renderObj_row_same]
    exact List.foldl_ext _ _ _ fun row i _ => drawSprite_eq s.cfg s.mem ly row i

theorem spriteLine_ci (m : Memory) (ly i c : Nat) :
    (spriteLine m ly i).ci c =
      (tileRowAt m (objRowAddr (oamEntry m i).tile ((oamEntry m i).rowOn (spriteHeight (m.reg .lcdc)) ly))).colourIndex
        ((oamEntry m i).bitOf c) := rfl

theorem spriteLine_palette (m : Memory) (ly i : Nat) :
    (spriteLine m ly i).palette = if testBit (m.read (oamBase + 4 * i + 3)) 4 then m.reg .obp1 else m.reg .obp0 := rfl

/-- The screen column of a sprite's column without negative numbers (R104, R198). -/
theorem spriteLine_column_iff (m : Memory) (ly i c : Nat) (sx : Fin 160) :
    (spriteLine m ly i).column c = some sx ↔ (sx : Nat) + 8 = (m.read (oamBase + 4 * i + 1)).toNat + c := by
  have hleft : (spriteLine m ly i).entry.left = (m.read (oamBase + 4 * i + 1)).toNat - 8 := rfl
  rw [SpriteLine.column_iff, hleft]
  omega

/-- Settles O37: the row and the colour index in closed form; palette and priority are the entry's attribute bits. -/
theorem spriteLineIsAssembledFromItsEntry : Obligations.SpriteLineIsAssembledFromItsEntry := by
  intro m ly i c y x tile attr h row lo hi b _ _ _
  refine ⟨?ci, spriteLine_palette m ly i, rfl, spriteLine_column_iff m ly i c⟩
  case ci =>
    rw [spriteLine_ci, TileRow.colourIndex_eq, oamEntry_rowOn]
    rfl

/-- A sprite of height 1 to 16 covers no visible line when it ends above line 0 or begins below line 143. -/
theorem oamEntry_covers_no_line_iff (m : Memory) (i : Nat) {h : Nat} (h1 : 1 ≤ h) (h16 : h ≤ 16) :
    (∀ ly, ly < 144 → (oamEntry m i).covers h ly = false) ↔
      (m.read (oamBase + 4 * i)).toNat + h ≤ 16 ∨ 160 ≤ (m.read (oamBase + 4 * i)).toNat := by
  simp only [Bool.eq_false_iff, ne_eq, oamEntry_covers_iff]
  constructor
  · intro hnone
    by_contra! hvisible
    exact hnone ((m.read (oamBase + 4 * i)).toNat - 16) (by omega) (by omega)
  · intro hoff ly hly
    omega

/-- Settles O38: the bounds for any height, at heights 8 and 16. -/
theorem spritesThatCoverNoVisibleLine : Obligations.SpritesThatCoverNoVisibleLine := by
  intro m i y
  rw [oamEntry_covers_no_line_iff m i (by decide) (by decide), oamEntry_covers_no_line_iff m i (by decide) (by decide)]
  omega

/-- Settles O39: none of the eight columns falls on the screen, so every pixel keeps its colour. -/
theorem spritesOffTheScreenDrawNothing : Obligations.SpritesOffTheScreenDrawNothing := by
  intro cfg m ly i row hx
  have hoff : ∀ (sx : Fin 160) c, c < 8 → (spriteLine m ly i).column c ≠ some sx := by
    intro sx c hc hcol
    rw [spriteLine_column_iff] at hcol
    omega
  have hrow : drawSpriteLine cfg (spriteLine m ly i) row = row :=
    Vector.ext fun k hk => drawSpriteLine_unreached cfg row (hoff ⟨k, hk⟩)
  rw [drawSprite, hrow, ite_self]

/-- A list of entries that do not cover the line leaves the row as it is. -/
theorem foldl_drawSprite_of_not_covers (cfg : Config) (m : Memory) (ly : Nat) (row : Row) {is : List Nat}
    (h : ∀ i ∈ is, (oamEntry m i).covers (spriteHeight (m.reg .lcdc)) ly = false) :
    is.foldl (drawSprite cfg m ly) row = row := by
  induction is with
  | nil => rfl
  | cons i is ih =>
    have hi : drawSprite cfg m ly row i = row := by simp [drawSprite, h i (by simp)]
    rw [List.foldl_cons, hi, ih fun j hj => h j (by simp [hj])]

/-- On a line that entry 0 covers and no other entry does, entry 0 is all that is drawn. -/
theorem objRow_of_entry_zero_alone (cfg : Config) (m : Memory) (ly : Nat) (row : Row)
    (h0 : (oamEntry m 0).covers (spriteHeight (m.reg .lcdc)) ly = true)
    (h : ∀ i, 0 < i → i < 40 → (oamEntry m i).covers (spriteHeight (m.reg .lcdc)) ly = false) :
    objRow cfg m ly row = drawSpriteLine cfg (spriteLine m ly 0) row := by
  have htail : ∀ i ∈ (List.range 39).map Nat.succ, (oamEntry m i).covers (spriteHeight (m.reg .lcdc)) ly = false := by
    intro i hi
    obtain ⟨j, hj, rfl⟩ := List.mem_map.mp hi
    exact h _ (Nat.succ_pos j) (Nat.succ_lt_succ (List.mem_range.mp hj))
  rw [objRow, oamEntries, List.range_succ_eq_map, List.foldl_cons, foldl_drawSprite_of_not_covers cfg m ly _ htail,
    drawSprite, if_pos h0]

/-- With the Y byte 16 in entry 0 and 0 in the others, RENDER_OBJ on line 0 draws entry 0 alone, in either height. -/
theorem renderObj_row_zero_of_entry_zero_alone (h0 : s.mem.read 0xFE00 = 16)
    (h : ∀ i, 0 < i → i < 40 → s.mem.read (0xFE00 + 4 * i) = 0) :
    (renderObj 0 s).fb.row 0 = drawSpriteLine s.cfg (spriteLine s.mem 0 0) (s.fb.row 0) := by
  have hheight := spriteHeight_cases (s.mem.reg .lcdc)
  rw [renderObj_row_same]
  refine objRow_of_entry_zero_alone s.cfg s.mem 0 _ ?covers fun i hpos hlt => ?others
  case covers =>
    rw [oamEntry_covers_iff, oamBase, Nat.mul_zero, h0]
    simp only [BitVec.reduceToNat]
    omega
  case others =>
    rw [Bool.eq_false_iff, ne_eq, oamEntry_covers_iff, oamBase, h i hpos hlt]
    simp only [BitVec.reduceToNat]
    omega

end Sys2Proof.Machine
end

section
/-! The source's priority scenario (spec/42_sprites.md rule R201): an opaque priority sprite whose column `c` falls on pixel
`c`, over WHITE, BLACK and then WHITE. -/

namespace Sys2Proof.Machine

variable {s : State} {cfg : Config} {l : SpriteLine} {row : Row}

theorem overNonWhite_zero_of_white (hcol : ∀ c : Fin 160, l.column c = some c) (h0 : row[0] = white) :
    ¬ l.OverNonWhite row 0 := fun h => (SpriteLine.overNonWhite_iff (hcol 0)).mp h h0

theorem overNonWhite_one_of_black (hcol : ∀ c : Fin 160, l.column c = some c) (h1 : row[1] = black) :
    l.OverNonWhite row 1 :=
  (SpriteLine.overNonWhite_iff (hcol 1)).mpr fun hw => absurd (h1.symm.trans hw) (by decide)

/-- Under `Scenario` the sprite shows from the BLACK pixel on. -/
theorem drawSpriteLine_scenario_at_origin (hv : cfg.prioVariant = .scenario) (hp : l.entry.prio = true)
    (ho : ∀ c, c < 8 → l.Opaque cfg c) (hcol : ∀ c : Fin 160, l.column c = some c) (h0 : row[0] = white)
    (h1 : row[1] = black) :
    (drawSpriteLine cfg l row)[0] = white ∧
      ∀ c : Fin 160, 1 ≤ c.val → c.val ≤ 7 → (drawSpriteLine cfg l row)[c] = pal (l.ci c) l.palette := by
  have hrule := fun (c : Fin 160) (hc : c.val < 8) =>
    scenarioShowsFromTheFirstNonWhite.2 cfg l row c c hv hp (ho c hc) (hcol c)
  constructor
  · refine ((hrule 0 (by decide)).2 fun c' hc' _ => ?_).trans h0
    rw [Nat.le_zero.mp hc']
    exact overNonWhite_zero_of_white hcol h0
  · exact fun c hlo hhi =>
      (hrule c (by omega)).1 ⟨1, hlo, ho 1 (by decide), overNonWhite_one_of_black hcol h1⟩

/-- Under `Prose` only the BLACK pixel hides it. -/
theorem drawSpriteLine_prose_at_origin (hv : cfg.prioVariant = .prose) (hp : l.entry.prio = true)
    (ho : ∀ c, c < 8 → l.Opaque cfg c) (hcol : ∀ c : Fin 160, l.column c = some c) (h0 : row[0] = white)
    (h1 : row[1] = black) (hrest : ∀ c : Fin 160, 2 ≤ c.val → c.val ≤ 7 → row[c] = white) :
    (drawSpriteLine cfg l row)[0] = pal (l.ci 0) l.palette ∧ (drawSpriteLine cfg l row)[1] = black ∧
      ∀ c : Fin 160, 2 ≤ c.val → c.val ≤ 7 → (drawSpriteLine cfg l row)[c] = pal (l.ci c) l.palette := by
  have hrule := fun (c : Fin 160) (hc : c.val < 8) =>
    proseHidesOnlyTheFirstNonWhite cfg l row c c hv hp (ho c hc) (hcol c)
  have hblack : row[(1 : Fin 160)] ≠ white :=
    (SpriteLine.overNonWhite_iff (hcol 1)).mp (overNonWhite_one_of_black hcol h1)
  refine ⟨(hrule 0 (by decide)).2 (.inl h0), ((hrule 1 (by decide)).1 ⟨hblack, fun c' hc' _ => ?_⟩).trans h1,
    fun c hlo hhi => (hrule c (by omega)).2 (.inl (hrest c hlo hhi))⟩
  rw [Nat.lt_one_iff.mp hc']
  exact overNonWhite_zero_of_white hcol h0

/-- Settles O43: entry 0 alone is drawn, with priority, under OBP0, its column `c` on pixel `c`. -/
theorem priorityScenarioOfTheSource : Obligations.PriorityScenarioOfTheSource := by
  rintro s l rfl hly hy (hx : s.mem.read (oamBase + 4 * 0 + 1) = 8)
    (hattr : s.mem.read (oamBase + 4 * 0 + 3) = 0x80) hothers hopaque h0 h1 hrest
  have hprio : (spriteLine s.mem 0 0).entry.prio = true := congrArg (testBit · 7) hattr
  have hpalette : (spriteLine s.mem 0 0).palette = s.reg .obp0 := by
    rw [spriteLine_palette, hattr]
    rfl
  have hcol : ∀ c : Fin 160, (spriteLine s.mem 0 0).column c = some c := by
    intro c
    rw [spriteLine_column_iff, hx]
    exact Nat.add_comm _ _
  refine ⟨_, exec_renderObj_of_row (ly := 0) (by rw [hly]; rfl), ?_⟩
  rw [State.respond_fb, renderObj_row_zero_of_entry_zero_alone hy hothers, ← hpalette]
  exact ⟨fun hv => drawSpriteLine_scenario_at_origin hv hprio hopaque hcol h0 h1,
    fun hv => drawSpriteLine_prose_at_origin hv hprio hopaque hcol h0 h1 hrest⟩

end Sys2Proof.Machine
end

section
/-! The fixed palette tables (spec/43_palette_framebuffer.md rule R218) and the frame buffer's own commands, FB_READ (rules
R219, R262) and FB_CLEAR (rule R223). -/

namespace Sys2Proof.Machine

/-- The fields of palette 0xE4, from the lowest on, count 0 to 3. -/
theorem identityPalette_field {ci : Nat} (h : ci < 4) : (0xE4#8).toNat / 4 ^ ci % 4 = ci := by
  interval_cases ci <;> rfl

theorem zeroPalette_field (ci : Nat) : (0x00#8).toNat / 4 ^ ci % 4 = 0 := by
  rw [BitVec.toNat_zero, Nat.zero_div]

/-- Settles O28: a shade is its palette's field, and field value 0 is white. -/
theorem paletteTables : Obligations.PaletteTables := by
  intro ci hci
  have hle : ci ≤ 3 := Nat.le_of_lt_succ hci
  refine ⟨?identity, ?zero, pal_of_field hle (k := 0) (zeroPalette_field ci)⟩
  case identity => exact (shade_toNat hle _).trans (identityPalette_field hci)
  case zero => exact (shade_toNat hle _).trans (zeroPalette_field ci)

theorem exec_fbRead_inside (row : Fin 144) (col : Fin 160) (s : State) :
    exec (.fbRead row col) s = .next (s.respondData (packRgb (s.fb.row row)[col])) :=
  dif_pos ⟨row.isLt, col.isLt⟩

theorem exec_fbRead_outside {row col : Nat} (h : 144 ≤ row ∨ 160 ≤ col) (s : State) :
    exec (.fbRead row col) s = .next (s.recordFault .badPixel) :=
  dif_neg (by omega)

/-- Settles O29: the answer inside the grid is the pixel's packed colour, whose three bytes are its channels. -/
theorem fbReadReturnsThePixel : Obligations.FbReadReturnsThePixel := by
  refine ⟨fun s row col => ?inside, fun s _ _ h => exec_fbRead_outside h s⟩
  case inside =>
    exact ⟨_, exec_fbRead_inside row col s, packRgb_r _, packRgb_g _, packRgb_b _⟩

theorem Frame.row_fill_getElem (colour : Rgb) (r : Fin 144) (c : Fin 160) : ((Frame.fill colour).row r)[c] = colour := by
  simp [Frame.row, Frame.fill]

theorem exec_fbClear (s : State) :
    exec .fbClear s = .next ((s.setFb (Frame.fill s.cfg.fbInitColour)).respond Response.ok) := rfl

/-- Settles O30: the command replaces the frame alone, by one whose every pixel is the fill colour. -/
theorem fbClearFillsTheFrame : Obligations.FbClearFillsTheFrame := by
  intro s
  exact ⟨_, exec_fbClear s, (SameButFb.setFb s _).respond_eq _, Frame.row_fill_getElem s.cfg.fbInitColour⟩

end Sys2Proof.Machine
end

section
/-! The host test port's two commands (spec/44_host_port.md rules R235, R239): what each one answers and leaves. -/

namespace Sys2Proof.Machine

@[simp] theorem State.respond_readDirectly (s : State) (r : Response) (a : Addr) :
    (s.respond r).readDirectly a = s.readDirectly a := rfl

/-- Settles O18: BUSW is one direct write, which changes memory alone, and its answer, which no byte of memory shows. -/
theorem buswStoresOneByte : Obligations.BuswStoresOneByte := by
  intro s a v hm
  refine ⟨_, exec_busw a v s, rfl, ?stored, fun b hb => ?others⟩
  case stored => rw [State.respond_readDirectly, readDirectly_writeDirectly_same hm]
  case others => rw [State.respond_readDirectly, readDirectly_writeDirectly_other hm hb]

theorem exec_busr (a : Addr) (s : State) : exec (.busr a) s = .next (s.respondData (0#16 ++ s.readDirectly a)) := rfl

/-- Settles O19: the answer is the byte in data bits 7-0, and answering data replaces the response alone. -/
theorem busrReturnsTheByte : Obligations.BusrReturnsTheByte :=
  fun s a => exec_busr a s

end Sys2Proof.Machine
end

section
/-! Faults and progress (spec/60_exceptions.md rules R260, R262): every step goes on, a command either completes with its
error bit and the record untouched or records one fault and changes nothing else, and which commands fault where. -/

namespace Sys2Proof.Machine

variable {s t : State}

theorem renderCurrentLine_next (render : Fin 144 → State → State) (s : State) :
    ∃ t, renderCurrentLine render s = .next t := by
  rcases Nat.lt_or_ge (s.reg .ly).toNat 144 with hl | hl
  · exact ⟨_, renderCurrentLine_of_row (ly := ⟨_, hl⟩) rfl render⟩
  · exact ⟨_, renderCurrentLine_of_past_last_row hl render⟩

/-- FB_READ inside the grid and outside it. -/
theorem exec_fbRead_cases (row col : Nat) (s : State) :
    (row < 144 ∧ col < 160 ∧ ∃ d, exec (.fbRead row col) s = .next (s.respondData d)) ∨
      ((144 ≤ row ∨ 160 ≤ col) ∧ exec (.fbRead row col) s = .next (s.recordFault .badPixel)) := by
  by_cases hout : 144 ≤ row ∨ 160 ≤ col
  · exact .inr ⟨hout, exec_fbRead_outside hout s⟩
  · have hr : row < 144 := by omega
    have hc : col < 160 := by omega
    exact .inl ⟨hr, hc, _, exec_fbRead_inside ⟨row, hr⟩ ⟨col, hc⟩ s⟩

/-- Every command answers a next state: only the RENDER commands and FB_READ have a condition, and both its branches do. -/
theorem exec_next (i : Instr) (s : State) : ∃ t, exec i s = .next t := by
  cases i with
  | renderLine => exact renderCurrentLine_next renderLineBody s
  | renderBg => exact renderCurrentLine_next renderBg s
  | renderObj => exact renderCurrentLine_next renderObj s
  | fbRead row col =>
    rcases exec_fbRead_cases row col s with ⟨_, _, _, h⟩ | ⟨_, h⟩ <;> exact ⟨_, h⟩
  | advance n => exact ⟨_, exec_advance n s⟩
  | palLookup ci p => exact ⟨_, rfl⟩
  | fbClear => exact ⟨_, exec_fbClear s⟩
  | busw a v => exact ⟨_, exec_busw a v s⟩
  | busr a => exact ⟨_, exec_busr a s⟩

theorem runWord_next (w : Word) (s : State) : ∃ t, runWord w s = .next t := by
  cases hw : decode w with
  | ok i => rw [runWord_of_decode hw]; exact exec_next i s
  | error e => exact ⟨_, runWord_of_decode_error hw s⟩

theorem step_of_port_nil (h : s.port = []) : step s = .next s := by
  rw [step, h]

theorem step_next (s : State) : ∃ t, step s = .next t := by
  cases hp : s.port with
  | nil => exact ⟨s, step_of_port_nil hp⟩
  | cons w rest => rw [step_of_port_cons hp]; exact runWord_next w _

/-- No command touches the port or the parameters. -/
theorem exec_port_cfg {i : Instr} (h : exec i s = .next t) : t.port = s.port ∧ t.cfg = s.cfg := by
  rcases exec_cases h with ⟨n, _, rfl⟩ | ⟨a, v, _, rfl⟩ | ⟨u, d, hu, rfl⟩ | ⟨f, rfl⟩
  · obtain ⟨hport, _, hcfg⟩ := advance_port_faults_cfg n s
    exact ⟨hport, hcfg⟩
  · exact ⟨rfl, rfl⟩
  · exact ⟨hu.port_eq, hu.cfg_eq⟩
  · exact ⟨rfl, rfl⟩

/-- A step takes the head word and keeps the parameters. -/
theorem step_port_cfg (h : step s = .next t) : t.port = s.port.tail ∧ t.cfg = s.cfg := by
  rcases step_cases h with ⟨hp, rfl⟩ | ⟨w, rest, _, ⟨i, _, hi⟩ | ⟨_, rfl⟩⟩
  · exact ⟨by rw [hp, List.tail_nil], rfl⟩
  · exact exec_port_cfg hi
  · exact ⟨rfl, rfl⟩

/-- Settles O8: each step answers a next state, and what a step does to the port and the parameters is the same for all. -/
theorem everyStepGoesOn : Obligations.EveryStepGoesOn := by
  intro s
  obtain ⟨t, h⟩ := step_next s
  exact ⟨t, h, step_port_cfg h⟩

/-- A command completes, its error bit and the record of faults untouched, or its whole effect is one fault. -/
theorem exec_clean_or_fault {i : Instr} (h : exec i s = .next t) :
    (t.resp.err = false ∧ t.faults = s.faults) ∨ ∃ f, t = s.recordFault f := by
  rcases exec_cases h with ⟨n, _, rfl⟩ | ⟨a, v, _, rfl⟩ | ⟨u, d, hu, rfl⟩ | hf
  · obtain ⟨_, hfaults, _⟩ := advance_port_faults_cfg n s
    exact .inl ⟨rfl, hfaults⟩
  · exact .inl ⟨rfl, rfl⟩
  · exact .inl ⟨rfl, hu.faults_eq⟩
  · exact .inr hf

/-- The same of a step that has a word to run, an illegal word's too. -/
theorem step_clean_or_fault (hp : s.port ≠ []) (h : step s = .next t) :
    (t.resp.err = false ∧ t.faults = s.faults) ∨ ∃ f, t = s.takeWord.recordFault f := by
  rcases step_cases h with ⟨hnil, _⟩ | ⟨w, rest, _, ⟨i, _, hi⟩ | ⟨_, ht⟩⟩
  · exact absurd hnil hp
  · exact exec_clean_or_fault hi
  · exact .inr ⟨_, ht⟩

/-- Settles O16: the error bit tells the two outcomes of `step_clean_or_fault` apart. -/
theorem faultingStepChangesNothingElse : Obligations.FaultingStepChangesNothingElse := by
  intro s t hp h
  rcases step_clean_or_fault hp h with ⟨hok, hfaults⟩ | ⟨f, rfl⟩
  · exact ⟨fun herr => absurd (hok.symm.trans herr) Bool.false_ne_true, fun _ => hfaults⟩
  · exact ⟨fun _ => ⟨rfl, f, rfl⟩, fun hok => absurd hok.symm Bool.false_ne_true⟩

/-- A renderer's command faults exactly where LY names no row. -/
theorem renderCurrentLine_err_iff {render : Fin 144 → State → State} (h : renderCurrentLine render s = .next t) :
    t.resp.err = true ↔ 144 ≤ (s.reg .ly).toNat := by
  rcases renderCurrentLine_cases h with ⟨hl, rfl⟩ | ⟨hl, rfl⟩
  · exact iff_of_false Bool.false_ne_true (Nat.not_le.mpr hl)
  · exact iff_of_true rfl hl

theorem exec_fbRead_err_iff {row col : Nat} (h : exec (.fbRead row col) s = .next t) :
    t.resp.err = true ↔ 144 ≤ row ∨ 160 ≤ col := by
  rcases exec_fbRead_cases row col s with ⟨hr, hc, d, hd⟩ | ⟨hout, hf⟩
  · obtain rfl := Host.Outcome.next.inj (hd.symm.trans h)
    exact iff_of_false Bool.false_ne_true (by omega)
  · obtain rfl := Host.Outcome.next.inj (hf.symm.trans h)
    exact iff_of_true rfl hout

@[simp] theorem advance_err (n : Nat) (s : State) : (advance n s).resp.err = false := rfl

/-- Settles O17: the RENDER commands and FB_READ by their conditions; the other commands answer with the error bit 0. -/
theorem commandsFaultExactlyWhereTheTableSays : Obligations.CommandsFaultExactlyWhereTheTableSays := by
  intro i s t h
  cases i with
  | renderLine => simp [renderCurrentLine_err_iff (render := renderLineBody) h]
  | renderBg => simp [renderCurrentLine_err_iff (render := renderBg) h]
  | renderObj => simp [renderCurrentLine_err_iff (render := renderObj) h]
  | fbRead row col => simp [exec_fbRead_err_iff h]
  | advance n => simp [← Host.Outcome.next.inj h]
  | palLookup | fbClear | busw | busr => simp [← Host.Outcome.next.inj h, Response.ok]

end Sys2Proof.Machine
end

section
/-! The CPU collaborator's pending flags (spec/60_exceptions.md rules R250, R253, R254, R256), for any sink first: a step hands
it the response of the command it ran. -/

namespace Sys2Proof.Machine

theorem eq_of_stepWithSink {σ : Type} {sink : IrqSink σ} {c d : σ} {s t : State}
    (h : stepWithSink sink c s = some (d, t)) : d = if s.port.isEmpty then c else sink t.resp c := by
  unfold stepWithSink at h
  split at h
  case h_1 t' _ =>
    obtain ⟨rfl, rfl⟩ := Prod.mk.inj (Option.some.inj h)
    rfl
  case h_2 => cases h
  case h_3 => cases h

/-- Settles O25: with no command run the flags stay; else each is the disjunction of itself and its request. -/
theorem pendingFlagsMergeRequests : Obligations.PendingFlagsMergeRequests := by
  intro p q s t h
  rw [eq_of_stepWithSink h]
  refine ⟨fun hp => ?idle, fun hp => ?ran⟩
  case idle => rw [hp]; rfl
  case ran =>
    rw [if_neg (by simpa using hp)]
    exact ⟨Bool.or_eq_true_iff, Bool.or_eq_true_iff⟩

end Sys2Proof.Machine
end

section
/-! Reset (spec/70_reset_and_hazards.md rules R280, R282, R283): what it gives each piece of the state, and the step with no
command to run. -/

namespace Sys2Proof.Machine

/-- Settles O7: an empty port leaves the step no word to run. -/
theorem stepWithoutCommandChangesNothing : Obligations.StepWithoutCommandChangesNothing := fun _ => step_of_port_nil

theorem resetWith_counter (cfg : Config) (image : Memory) : (State.resetWith cfg image).counter = 456 := rfl

theorem resetWith_pixel (cfg : Config) (image : Memory) (r : Fin 144) (c : Fin 160) :
    ((State.resetWith cfg image).fb.row r)[c] = cfg.fbInitColour := Frame.row_fill_getElem cfg.fbInitColour r c

theorem resetWith_readDirectly (cfg : Config) (image : Memory) (a : Addr) :
    (State.resetWith cfg image).readDirectly a = image.read a.toNat := rfl

/-- Settles O11: counter, pixels and memory by their own rules; the response is `Response.ok`, every field of it 0. -/
theorem resetLoadsCounterFrameAndResponse : Obligations.ResetLoadsCounterFrameAndResponse := by
  refine ⟨fun cfg image r c => ⟨resetWith_counter cfg image, resetWith_pixel cfg image r c, ?response,
    resetWith_readDirectly cfg image⟩, ?defaultColour⟩
  case response => rfl
  case defaultColour => rfl

/-- The reference start state lists no byte of memory, so each register reads as an unlisted one. -/
theorem reset_reg (r : Reg) : State.reset.reg r = 0 := resetWith_readDirectly defaultConfig [] (regAddr r)

/-- Settles O12: the reset rules at the default parameters, whose fill colour is WHITE, and at the empty memory. -/
theorem referenceStartState : Obligations.ReferenceStartState :=
  ⟨resetWith_counter defaultConfig [], reset_reg, resetWith_pixel defaultConfig []⟩

end Sys2Proof.Machine
end
